-- ==== Sys2Proof/Word.lean ====
section
/-! DEFINITION. The word type of the event encoding (spec/30_encoding.md R71, R79): every event is one 16-bit word, bit 0
the least significant; there is no other length and no byte order (spec/20_memory.md R55). -/

namespace Sys2Proof

/-- The 16-bit event word `w` of R71: kind in `w[15:12]`, payload in `w[11:0]`. -/
abbrev EventWord := BitVec 16

end Sys2Proof
end

