-- ==== Sys2Proof/Config.lean ====
section
/-! DEFINITION. The configuration `CFG` (spec/00_scope.md R8) as plain data, the free values the spec leaves open
(opaque, without a body), and `EXAMPLE_CFG` (R10). What makes a configuration well-formed stands in WellFormed.lean. -/

namespace Sys2Proof

/-- `ENC_POLARITY`, `+1` or `-1` (R8, spec/30_encoding.md R81, R82). -/
inductive Polarity where
  | plus
  | minus
deriving DecidableEq, Repr

/-- A pair of integer duties, one per channel: an entry of `DT` (R36) or the registers of one module (R34). -/
structure Duty where
  warm : Int
  cold : Int
deriving DecidableEq, Repr, Inhabited

/-- The zero pair `{0, 0}` an unsupported temperature holds (R36). -/
def Duty.zero : Duty := ⟨0, 0⟩

/-- A raw duty pair of the builder, before the rescale (R111). Exact arithmetic; rationals stand for the spec's reals
(DESIGN CHOICE, log 1). -/
structure RawDuty where
  warm : Rat
  cold : Rat
deriving DecidableEq, Repr

/-- The duty-cycle table `DT` as (temperature, pair) entries; canonical form `DutyTable.wf`. A temperature with no entry
holds `{0, 0}` (R36). -/
abbrev DutyTable := List (Int × Duty)

/-- Temperatures strictly rise along the list, starting above `b`. -/
def DutyTable.risesFrom (b : Int) : DutyTable → Bool
  | [] => true
  | (t, _) :: r => decide (b < t) && DutyTable.risesFrom t r

/-- The canonical form of a duty table: temperatures strictly rising and no entry equal to what an unlisted temperature
reads as. -/
def DutyTable.wf : DutyTable → Bool
  | [] => true
  | (t, d) :: r => DutyTable.risesFrom t r && ((t, d) :: r).all fun e => decide (e.2 ≠ Duty.zero)

/-- A chromaticity coordinate pair of an LED (R8 `LED_WARM`, `LED_COLD`). -/
structure Point where
  x : Rat
  y : Rat
deriving DecidableEq, Repr

/-- `ChromaticityPoint`: "temperatureKelvinHundreds: int, x: float, y: float" (spec/40_chromaticity_lookup_table.md R100);
the values are the rationals the binary32 values denote (R102). -/
structure ChromaPoint where
  t : Int
  x : Rat
  y : Rat
deriving DecidableEq, Repr

/-- `RAW_MIX` (R112): the reference definition, or another mixing function, `Config.otherRawMix`. -/
inductive RawMix where
  | reference
  | other
deriving DecidableEq, Repr

/-- `BUILD_NUMERICS` (R116): exact arithmetic with one truncation at the store, or another arithmetic,
`Config.otherMixNumerics`, `Config.otherEndpointNumerics` and `Config.otherRescale`. -/
inductive BuildNumerics where
  | exact
  | other
deriving DecidableEq, Repr

/-- `SCALE_FN` (R134): the default binary32 product, R134's alternative reading (exact product of the binary32 values, then
truncation), or another arithmetic, `Config.otherScaleFn`. -/
inductive ScaleFn where
  | binary32
  | exactProduct
  | other
deriving DecidableEq, Repr

/-- The builder's operands (spec/41_duty_cycle_accumulator.md R110). `CHROMA_LO` and `CHROMA_HI` are the first and last
temperature of the chromaticity table. -/
structure BuildCfg where
  chromaLo : Int
  chromaHi : Int
  chroma : List ChromaPoint
  ledWarm : Point
  ledCold : Point
  lumWarm : Rat
  lumCold : Rat
  rawMix : RawMix := .reference
  numerics : BuildNumerics := .exact
deriving DecidableEq, Repr

/-- Where `DT` comes from: built at boot, or `DUTY_TABLE` "supplied directly instead of by the builder" (R8). A supplied
table needs none of the builder's operands, as `EXAMPLE_CFG` (R10) gives none (DEDUCED, log 10). -/
inductive DutySource where
  | build (b : BuildCfg)
  | supplied (t : DutyTable)
deriving DecidableEq, Repr

/-- `SEG_MAP` (spec/30_encoding.md R86): the 8-bit segment pattern of each glyph of R85. The default is R86's table. -/
structure SegMap where
  d0 : BitVec 8 := 0x3F
  d1 : BitVec 8 := 0x06
  d2 : BitVec 8 := 0x5B
  d3 : BitVec 8 := 0x4F
  d4 : BitVec 8 := 0x66
  d5 : BitVec 8 := 0x6D
  d6 : BitVec 8 := 0x7D
  d7 : BitVec 8 := 0x07
  d8 : BitVec 8 := 0x7F
  d9 : BitVec 8 := 0x6F
  blank : BitVec 8 := 0x00
  dp : BitVec 8 := 0x80
  hyphen : BitVec 8 := 0x40
deriving DecidableEq, Repr

/-- Parameters the spec records for the reader and no rule reads: the electrical levels (R33) and the two periods (R281).
Kept so that the parameter table of R8 is whole (log 12). -/
structure RecordedCfg where
  segActiveLevel : Bool := true
  selActiveLevel : Bool := true
  scanPeriod : Nat := 0
  debTickPeriod : Nat := 0
deriving DecidableEq, Repr

/-- The configuration `CFG` of R8, one field per parameter, with R8's defaults. -/
structure Cfg where
  pwmMax : Int
  tWarm : Int
  tCold : Int
  colorMin : Int := tWarm
  colorMax : Int := tCold
  source : DutySource
  brightness : List Rat
  divIntensity : Int
  divColor : Int
  debCount : Int
  polarity : Polarity := .plus
  segMap : SegMap := {}
  initIntensity : Int
  initColor : Int
  initAb : Option (BitVec 2) := none
  initAuxCold : Int
  initAuxWarm : Int
  scaleFn : ScaleFn := .binary32
  recorded : RecordedCfg := {}
deriving DecidableEq, Repr

/-- The operands of one evaluation of `RAW_MIX` at a target chromaticity (R112). -/
structure MixInput where
  pwmMax : Int
  ledWarm : Point
  ledCold : Point
  lumWarm : Rat
  lumCold : Rat
  x : Rat
  y : Rat
deriving DecidableEq, Repr

/-- The `RAW_MIX` of a configuration that substitutes its own (R112); `none` is a result that is not finite (R120).
Free (log 7). -/
opaque Config.otherRawMix : MixInput → Option RawDuty

/-- The reference mix under an arithmetic that is not exact (R116 `BUILD_NUMERICS`). Free (log 7). -/
opaque Config.otherMixNumerics : MixInput → Option RawDuty

/-- An endpoint's raw value `PWM_MAX * (LW + LC) / L` (R113), from `PWM_MAX`, `LW`, `LC` and the endpoint's own `L`, under an
arithmetic that is not exact. Free (log 7). -/
opaque Config.otherEndpointNumerics : Int → Rat → Rat → Rat → Option Rat

/-- The rescale and store of one raw value, from the raw value, `PWM_MAX` and `M` (R116), under an arithmetic that is not
exact, before it is brought into the range R50 gives the contents of `DT`. Free (log 7). -/
opaque Config.otherRescale : Rat → Int → Rat → Nat

/-- The `SCALE_FN` of a configuration that substitutes its own (R134). Free (log 7). -/
opaque Config.otherScaleFn : Rat → Int → Int

/-- The encoder reading at reset when `INIT_AB` is not given: a draw over the four readings (spec/10_state.md R28,
spec/60_exceptions.md R236). Free (log 3). -/
opaque Config.encoderAtReset : BitVec 2

/-- The k-th duty value of a run, drawn by the auxiliary command with the given character (spec/46_key_commands.md R219, R236),
before it is brought into `[0, PWM_MAX]`. Two commands draw independently. Free (log 8). -/
opaque Config.auxDuty : BitVec 8 → Nat → Nat

/-- The table of `EXAMPLE_CFG` (R10): `warm(t) = min(1000, 1025 - 25*(t-27))`, `cold(t) = min(1000, 75 + 25*(t-27))` for `t`
in `[27, 65]`. -/
def exampleTable : DutyTable :=
  (List.range 39).map fun (k : Nat) =>
    ((27 : Int) + (k : Int), ⟨min 1000 (1025 - 25 * (k : Int)), min 1000 (75 + 25 * (k : Int))⟩)

/-- `EXAMPLE_CFG` (R10), the spec's own configuration for test vectors; no claim about the hardware rests on it. -/
def exampleCfg : Cfg where
  pwmMax := 1000
  tWarm := 27
  tCold := 65
  source := .supplied exampleTable
  brightness := [1/64, 1/32, 1/16, 1/8, 3/16, 1/4, 3/8, 1/2, 3/4, 1]
  divIntensity := 4
  divColor := 5
  debCount := 2
  initIntensity := 5
  initColor := 40
  initAb := some 0b00
  initAuxCold := 0
  initAuxWarm := 0

end Sys2Proof
end

