-- ==== Sys2Proof/Machine/Arith.lean ====
section
/-! DEFINITION. The arithmetic of the spec's notation (spec/00_scope.md R11) and of `SCALE_FN`
(spec/42_brightness_curve_scaler.md R134): clamp, truncation, rounding to binary32. -/

namespace Sys2Proof.Machine

/-- `clamp(v, lo, hi) = min(max(v, lo), hi)` (R11). -/
def clamp (v lo hi : Int) : Int := min (max v lo) hi

/-- `trunc(r)`: the integer nearest `r` in the direction of zero (R11). -/
def trunc (r : Rat) : Int := r.num.tdiv r.den

/-- `2^k` for an integer `k`. -/
def pow2 (k : Int) : Rat := if 0 ≤ k then ((2 ^ k.toNat : Nat) : Rat) else 1 / ((2 ^ (-k).toNat : Nat) : Rat)

/-- The binary exponent of a positive rational: the `e` with `2^e ≤ x < 2^(e+1)`. -/
def binaryExponent (x : Rat) : Int :=
  let e : Int := (Nat.log2 x.num.natAbs : Int) - (Nat.log2 x.den : Int)
  if pow2 e ≤ x then e else e - 1

/-- The nearest integer, ties to even. -/
def roundTiesEven (x : Rat) : Int :=
  let f := x.floor
  let r := x - (f : Rat)
  if r < 1 / 2 then f
  else if 1 / 2 < r then f + 1
  else if f % 2 = 0 then f
  else f + 1

/-- The spacing of the binary32 values around a positive rational: 24 significant bits, never below `2^-149`. -/
def ulp32 (x : Rat) : Rat := pow2 (max (binaryExponent x - 23) (-149))

/-- The binary32 value nearest a positive rational, ties to even. -/
def fl32Pos (x : Rat) : Rat := (roundTiesEven (x / ulp32 x) : Rat) * ulp32 x

/-- `fl32(r)`: rounding to binary32, to nearest, ties to even (R134), subnormals included. Infinities are not represented:
every use has `|r| ≤ 2^24` (PRESUMED IEEE 754, log 9). -/
def fl32 (r : Rat) : Rat :=
  if r = 0 then 0 else if r < 0 then -fl32Pos (-r) else fl32Pos r

/-- The default `SCALE_FN` (R134): binary32 product, then truncation. -/
def scaleBinary32 (b : Rat) (d : Int) : Int := trunc (fl32 (fl32 b * fl32 (d : Rat)))

/-- R134's alternative reading: the exact product of the binary32 values, then truncation. -/
def scaleExact (b : Rat) (d : Int) : Int := trunc (fl32 b * fl32 (d : Rat))

/-- `SCALE_FN(b, d)` as the configuration chooses it (R134). -/
def scale (c : Cfg) (b : Rat) (d : Int) : Int :=
  match c.scaleFn with
  | .binary32 => scaleBinary32 b d
  | .exactProduct => scaleExact b d
  | .other => Config.otherScaleFn b d

/-- The integer of `[0, p]` that a free natural number stands for: every function into `[0, p]` is one of these. -/
def withinRange (p : Int) (k : Nat) : Int := ((k % (p.toNat + 1) : Nat) : Int)

end Sys2Proof.Machine
end

