-- ==== Sys2Proof/Syntax.lean ====
section
/-! DEFINITION. The instructions: the block's events (spec/30_encoding.md R70), one constructor per row of
spec/opcode_table.json. -/

namespace Sys2Proof

/-- The payload of `BTN_EDGE` (R73): the press edge or the release edge of the button. -/
inductive Edge where
  | release
  | press
deriving DecidableEq, Repr

/-- The payload of `DEB_TICK` (R74): the logical button level sampled at the tick. -/
inductive Level where
  | released
  | held
deriving DecidableEq, Repr

/-- One event of the block (R70). The `KEY(c)` event of R76 is split by character as the opcode table splits it. -/
inductive Instr where
  /-- `ENC_EDGE(ab)` (R72): the encoder reading, `A` in bit 1 and `B` in bit 0. -/
  | encEdge (ab : BitVec 2)
  /-- `BTN_EDGE(e)` (R73). -/
  | btnEdge (e : Edge)
  /-- `DEB_TICK(l)` (R74). -/
  | debTick (l : Level)
  /-- `SCAN_TICK` (R75). -/
  | scanTick
  /-- `KEY 'h'` (R84). -/
  | keyH
  /-- `KEY 'b'` (R84). -/
  | keyB
  /-- `KEY 'c'` (R84). -/
  | keyC
  /-- `KEY 'd'` (R84). -/
  | keyD
  /-- `KEY 'q'` (R84). -/
  | keyQ
  /-- `KEY 'a'` (R84). -/
  | keyA
  /-- `KEY 'w'` (R84). -/
  | keyW
  /-- `KEY 's'` (R84). -/
  | keyS
  /-- `KEY(c)` with `c` none of the eight command characters (R84, R220). -/
  | keyOther (c : BitVec 8)
deriving DecidableEq, Repr

/-- The three triggers (spec/60_exceptions.md R237). -/
inductive Trigger where
  | edge
  | scan
  | loop
deriving DecidableEq, Repr

/-- Which trigger delivers an event (R237). -/
def Instr.trigger : Instr → Trigger
  | .encEdge _ | .btnEdge _ => .edge
  | .scanTick => .scan
  | .debTick _ | .keyH | .keyB | .keyC | .keyD | .keyQ | .keyA | .keyW | .keyS | .keyOther _ => .loop

end Sys2Proof
end

