-- ==== Sys2Proof/WellFormed.lean ====
section
/-! DEFINITION. What makes an instruction well-formed (the rows KEY_<ch> take precedence over KEY_other, spec/30_encoding.md
R84) and what makes a configuration well-formed (spec/00_scope.md R8, R9, with R101, R121 and R130), one named check per
constraint; and the configuration the machine is installed with, arbitrary but well-formed. -/

namespace Sys2Proof

/-- The eight command characters of R84, in its order: `h b c d q a w s`. -/
def commandChars : List (BitVec 8) := [0x68, 0x62, 0x63, 0x64, 0x71, 0x61, 0x77, 0x73]

/-- `KEY_other` carries none of the command characters (R84, R220); every other event is well-formed as it stands. -/
def Instr.wellFormed : Instr → Bool
  | .keyOther c => !commandChars.contains c
  | _ => true

/-- A value of `[0, 1]`. -/
def inUnit (v : Rat) : Bool := decide (0 ≤ v) && decide (v ≤ 1)

/-- `1 <= PWM_MAX <= 2^24` (R8). -/
def Cfg.pwmMaxOk (c : Cfg) : Bool := decide (1 ≤ c.pwmMax) && decide (c.pwmMax ≤ 2 ^ 24)

/-- `T_COLD - T_WARM >= 2` (R8). -/
def Cfg.temperaturesOk (c : Cfg) : Bool := decide (2 ≤ c.tCold - c.tWarm)

/-- `T_WARM <= COLOR_MIN <= COLOR_MAX <= T_COLD` (R8). -/
def Cfg.colorBoundsOk (c : Cfg) : Bool :=
  decide (c.tWarm ≤ c.colorMin) && decide (c.colorMin ≤ c.colorMax) && decide (c.colorMax ≤ c.tCold)

/-- No value is above the one after it. -/
def nonDecreasing : List Rat → Bool
  | [] => true
  | [_] => true
  | a :: b :: r => decide (a ≤ b) && nonDecreasing (b :: r)

/-- Exactly 10 values of `(0, 1]`, non-decreasing (R130). -/
def Cfg.brightnessOk (c : Cfg) : Bool :=
  decide (c.brightness.length = 10) && (c.brightness.all fun b => decide (0 < b) && decide (b ≤ 1)) &&
    nonDecreasing c.brightness

/-- `DIV_INTENSITY` and `DIV_COLOR` at least 1 (R8). -/
def Cfg.divisorsOk (c : Cfg) : Bool := decide (1 ≤ c.divIntensity) && decide (1 ≤ c.divColor)

/-- `DEB_COUNT >= 1` (R8). -/
def Cfg.debCountOk (c : Cfg) : Bool := decide (1 ≤ c.debCount)

/-- `INIT_INTENSITY` in `[-1, 9]`, `INIT_COLOR` in `[COLOR_MIN, COLOR_MAX]` (R8). -/
def Cfg.initLightingOk (c : Cfg) : Bool :=
  decide (-1 ≤ c.initIntensity) && decide (c.initIntensity ≤ 9) &&
    decide (c.colorMin ≤ c.initColor) && decide (c.initColor ≤ c.colorMax)

/-- `INIT_AUX_COLD` and `INIT_AUX_WARM` in `[0, 100]` (R8). -/
def Cfg.initAuxOk (c : Cfg) : Bool :=
  decide (0 ≤ c.initAuxCold) && decide (c.initAuxCold ≤ 100) &&
    decide (0 ≤ c.initAuxWarm) && decide (c.initAuxWarm ≤ 100)

/-- The integers `lo, lo + 1, …, hi`. -/
def temperatures (lo hi : Int) : List Int := (List.range (hi - lo + 1).toNat).map fun (k : Nat) => lo + (k : Int)

/-- R101: the temperatures are exactly `CHROMA_LO … CHROMA_HI`. -/
def BuildCfg.contiguousOk (b : BuildCfg) : Bool :=
  decide (b.chroma.map (·.t) = temperatures b.chromaLo b.chromaHi)

/-- R101: every `x` and `y` of the chromaticity table in `[0, 1]`. -/
def BuildCfg.pointsOk (b : BuildCfg) : Bool := b.chroma.all fun p => inUnit p.x && inUnit p.y

/-- R101: `CHROMA_LO <= T_WARM` and `T_COLD <= CHROMA_HI`. -/
def BuildCfg.coversOk (b : BuildCfg) (tWarm tCold : Int) : Bool :=
  decide (b.chromaLo ≤ tWarm) && decide (tCold ≤ b.chromaHi)

/-- R8: the LED chromaticities in `[0, 1]`, `xw != xc`, `yw > 0`, `yc > 0`. -/
def BuildCfg.ledsOk (b : BuildCfg) : Bool :=
  inUnit b.ledWarm.x && inUnit b.ledWarm.y && inUnit b.ledCold.x && inUnit b.ledCold.y &&
    decide (b.ledWarm.x ≠ b.ledCold.x) && decide (0 < b.ledWarm.y) && decide (0 < b.ledCold.y)

/-- R8: `LUM_WARM > 0` and `LUM_COLD > 0`. -/
def BuildCfg.lumensOk (b : BuildCfg) : Bool := decide (0 < b.lumWarm) && decide (0 < b.lumCold)

/-- R121: in `[T_WARM, T_COLD]` both duties in `[0, PWM_MAX]`, `{0, 0}` everywhere else; and the canonical form. -/
def DutyTable.suppliedOk (dt : DutyTable) (pwmMax tWarm tCold : Int) : Bool :=
  DutyTable.wf dt && dt.all fun e =>
    decide (tWarm ≤ e.1) && decide (e.1 ≤ tCold) && decide (0 ≤ e.2.warm) && decide (e.2.warm ≤ pwmMax) &&
      decide (0 ≤ e.2.cold) && decide (e.2.cold ≤ pwmMax)

/-- The constraints on where `DT` comes from (R8, R101, R121). -/
def Cfg.sourceOk (c : Cfg) : Bool :=
  match c.source with
  | .supplied dt => DutyTable.suppliedOk dt c.pwmMax c.tWarm c.tCold
  | .build b => b.contiguousOk && b.pointsOk && b.coversOk c.tWarm c.tCold && b.ledsOk && b.lumensOk

/-- A well-formed configuration: every constraint of R8 holds. One that breaks any is refused, `CONFIG_ILL_FORMED` (R9,
R234). -/
def Cfg.wellFormed (c : Cfg) : Bool :=
  c.pwmMaxOk && c.temperaturesOk && c.colorBoundsOk && c.brightnessOk && c.divisorsOk && c.debCountOk &&
    c.initLightingOk && c.initAuxOk && c.sourceOk

/-- A configuration together with its well-formedness; the defaults only show that there is one. -/
structure ValidCfg where
  raw : Cfg := exampleCfg
  wf : raw.wellFormed = true := by decide +kernel
deriving Inhabited

/-- The configuration of the installed hardware: some well-formed configuration, and nothing more is known of it (R8, R9:
"the model takes" it "as an argument"). Free (log 3). -/
opaque Config.installed : ValidCfg

end Sys2Proof
end

