-- ==== Sys2Proof/Machine/State.lean ====
section
/-! DEFINITION. The state record `S` of spec/10_state.md (R20 to R38), the fault and refusal reasons of
spec/60_exceptions.md (R231, R234), and the state a run starts in (spec/70_reset_and_hazards.md R260). -/

namespace Sys2Proof.Machine

/-- The fault reasons of R231, each with the value that failed the check (R230). A handler that faults answers a next state
with `State.fault` set and none of its writes; `step` answers the fault from such a state, since no event is taken there. -/
inductive Fault where
  /-- `DT_INDEX_OUT_OF_RANGE`: `setLighting` read `DT` outside `[COLOR_MIN, COLOR_MAX]` (R52). Safe: the source calls the
  result undefined. -/
  | dtIndexOutOfRange (ct : Int)
  /-- `INTENSITY_OUT_OF_RANGE`: `setLighting` read the brightness curve outside `[0, 9]` (R53). Safe, as above. -/
  | intensityOutOfRange (i : Int)
  /-- `CHROMA_INDEX_OUT_OF_RANGE`: `ChromaLookup` outside the table (R103), boot only. Safe, as above. -/
  | chromaIndexOutOfRange (t : Int)
deriving DecidableEq, Repr

/-- The refusal reasons of R234. -/
inductive Reason where
  /-- `RESERVED_EVENT`: a word that spells no event was presented (R77). -/
  | reservedEvent
  /-- `CONFIG_ILL_FORMED`: the configuration breaks a constraint of R8 (R9). -/
  | configIllFormed
  /-- `CONFIG_RAW_NEGATIVE`: the builder met a raw value that is negative or not finite (R120). -/
  | configRawNegative
  /-- `CONFIG_NO_SCALE`: the maximum over the intermediate temperatures is not positive (R115). -/
  | configNoScale
deriving DecidableEq, Repr

/-- Why a step has no meaning. -/
inductive Refusal where
  /-- Raised by no arm of `exec`: every instruction has its meaning. Safe. -/
  | notModelled (mnemonic : String)
  /-- Raised by `step` from a refused state: the run took a refusal of R234 and no further event is taken. Safe: the spec
  gives the input no meaning. -/
  | runRefused (r : Reason)
deriving DecidableEq, Repr

/-- `S.mode` (R24). -/
inductive Mode where
  | intensity
  | color
deriving DecidableEq, Repr

/-- `S.deb_state` (R29). -/
inductive DebState where
  | idle
  | pressed
  | debouncing
deriving DecidableEq, Repr

/-- `S.phase` (R37). -/
inductive Phase where
  | boot
  | ready
deriving DecidableEq, Repr

/-- The five boot steps (spec/70_reset_and_hazards.md R261 to R265), in order. -/
inductive BootStep where
  | build
  | lighting
  | display
  | diagnostics
  | enterReady
deriving DecidableEq, Repr

/-- A glyph of a display slot (spec/30_encoding.md R85). -/
inductive Glyph where
  | d0
  | d1
  | d2
  | d3
  | d4
  | d5
  | d6
  | d7
  | d8
  | d9
  | blank
  | dp
  | hyphen
deriving DecidableEq, Repr

/-- The display buffer: slot 0 left (tens), slot 1 right (ones) (R31). -/
structure Disp where
  left : Glyph
  right : Glyph
deriving DecidableEq, Repr

/-- An output module (spec/30_encoding.md R89). -/
inductive Module where
  | m0
  | m1
deriving DecidableEq, Repr

/-- A channel of an output module (R89). -/
inductive Channel where
  | warm
  | cold
deriving DecidableEq, Repr

/-- The four PWM duty registers `S.pwm[m][ch]` (R34). -/
structure Pwm where
  m0 : Duty
  m1 : Duty
deriving DecidableEq, Repr

/-- The state record `S` of R20, with four fields of the model's own (`cfg`, `inputs`, `bootNext`, `draws`: logs 2, 4, 5,
8). -/
structure State where
  /-- The model's own: the configuration, constant for the run (R20, R40). -/
  cfg : Cfg
  /-- `S.colorTemp` (R21). -/
  colorTemp : Int
  /-- `S.intensity` (R22). -/
  intensity : Int
  /-- `S.mode` (R24). -/
  mode : Mode
  /-- `S.enc_raw_intensity` (R25). -/
  encRawIntensity : Int
  /-- `S.enc_raw_color` (R26). -/
  encRawColor : Int
  /-- `S.prev_ab` (R28). -/
  prevAb : BitVec 2
  /-- `S.deb_state` (R29). -/
  debState : DebState
  /-- `S.deb_count` (R30). -/
  debCount : Int
  /-- `S.disp` (R31). -/
  disp : Disp
  /-- `S.scan_pos` (R32). -/
  scanPos : BitVec 1
  /-- `S.seg_out` (R33). -/
  segOut : BitVec 8
  /-- `S.dig_sel` (R33). -/
  digSel : BitVec 2
  /-- `S.pwm` (R34). -/
  pwm : Pwm
  /-- `S.aux_cold_pct` (R35). -/
  auxColdPct : Int
  /-- `S.aux_warm_pct` (R35). -/
  auxWarmPct : Int
  /-- `DT` (R36). -/
  dt : DutyTable
  /-- `S.phase` (R37). -/
  phase : Phase
  /-- `S.fault` (R38). -/
  fault : Option Fault
  /-- `S.refused` (R38). -/
  refused : Option Reason
  /-- The model's own: the events presented and not yet taken, oldest first (R71, R235). -/
  inputs : List EventWord
  /-- The model's own: the boot step taken next while `phase` is `boot`. -/
  bootNext : BootStep
  /-- The model's own: how many free duty values have been drawn (R219). -/
  draws : Nat
deriving DecidableEq, Repr

/-- The state a run starts in under configuration `c` (R260). `INIT_AB`, if not given, is a draw (R28). -/
def State.resetWith (c : Cfg) : State where
  cfg := c
  colorTemp := c.initColor
  intensity := c.initIntensity
  mode := .intensity
  encRawIntensity := c.initIntensity * c.divIntensity
  encRawColor := c.initColor * c.divColor
  prevAb := c.initAb.getD Config.encoderAtReset
  debState := .idle
  debCount := 0
  disp := ⟨.blank, .blank⟩
  scanPos := 0
  segOut := 0
  digSel := 0
  pwm := ⟨Duty.zero, Duty.zero⟩
  auxColdPct := c.initAuxCold
  auxWarmPct := c.initAuxWarm
  dt := []
  phase := .boot
  fault := none
  refused := none
  inputs := []
  bootNext := .build
  draws := 0

/-- The machine right after reset (R260), under the installed configuration. -/
def State.reset : State := State.resetWith Config.installed.raw

end Sys2Proof.Machine
end

