-- ==== Sys2Proof/Machine/Chroma.lean ====
section
/-! DEFINITION. The chromaticity lookup table (spec/40_chromaticity_lookup_table.md): read by the builder only, during
boot only (R106). -/

namespace Sys2Proof.Machine

/-- The first point of the list with temperature `t`. -/
def findPoint (t : Int) : List ChromaPoint → Option ChromaPoint
  | [] => none
  | p :: r => if p.t = t then some p else findPoint t r

/-- `ChromaLookup(t)` (R103): the point of `t`, a fault outside `[CHROMA_LO, CHROMA_HI]`. A table that is not contiguous is
ill-formed (R101); a point it lacks faults too. -/
def chromaLookup (b : BuildCfg) (t : Int) : Except Fault ChromaPoint :=
  if b.chromaLo ≤ t ∧ t ≤ b.chromaHi then
    match findPoint t b.chroma with
    | some p => .ok p
    | none => .error (.chromaIndexOutOfRange t)
  else .error (.chromaIndexOutOfRange t)

end Sys2Proof.Machine
end

