-- ==== Sys2Proof/Machine/Table.lean ====
section
/-! DEFINITION. The duty-cycle table `DT` (spec/10_state.md R36): reading and writing one entry of the canonical list. -/

namespace Sys2Proof

/-- `DT[t]`: the entry stored for `t`; a temperature with none is "zero-initialized" (R36). -/
def DutyTable.get : DutyTable → Int → Duty
  | [], _ => Duty.zero
  | (k, d) :: r, t => if t = k then d else DutyTable.get r t

/-- `DT[t] <- d`, keeping the canonical form: writing `{0, 0}` removes the entry. -/
def DutyTable.set : DutyTable → Int → Duty → DutyTable
  | [], t, d => if d = Duty.zero then [] else [(t, d)]
  | (k, e) :: r, t, d =>
    if t < k then (if d = Duty.zero then (k, e) :: r else (t, d) :: (k, e) :: r)
    else if t = k then (if d = Duty.zero then r else (t, d) :: r)
    else (k, e) :: DutyTable.set r t d

/-- The table that holds the given entries, written in order into the all-zero table. -/
def DutyTable.ofEntries (es : List (Int × Duty)) : DutyTable :=
  es.foldl (fun dt e => DutyTable.set dt e.1 e.2) []

end Sys2Proof
end

