-- ==== Sys2Proof/Machine/Builder.lean ====
section
/-! DEFINITION. The duty-cycle table builder (spec/41_duty_cycle_accumulator.md): raw mixing, the maximum over the
intermediate temperatures, the rescale of the whole table, the clamp of the endpoints, in this order (R118). -/

namespace Sys2Proof.Machine

/-- Why `BUILD` gives no table: a fault of `ChromaLookup`, or a refusal of the configuration (R119). -/
inductive BuildStop where
  | fault (f : Fault)
  | refusal (r : Reason)
deriving DecidableEq, Repr

/-- The reference `RAW_MIX` (R112); `none` where a quotient's divisor is zero, the value then being "not finite" (R119,
R120). -/
def referenceMix (m : MixInput) : Option RawDuty :=
  if m.x = m.ledWarm.x ∨ m.ledCold.y = 0 ∨ m.lumWarm = 0 ∨ m.lumCold = 0 then none
  else
    let rho := (m.ledCold.x - m.x) / (m.x - m.ledWarm.x)
    let q := rho * m.ledWarm.y / m.ledCold.y
    if q + 1 = 0 then none
    else
      let dc := (m.lumWarm + m.lumCold) / (m.lumCold * (q + 1))
      let dw := q * dc * m.lumCold / m.lumWarm
      some ⟨dw * m.pwmMax, dc * m.pwmMax⟩

/-- `RAW_MIX` as the configuration chooses it (R112, R116). -/
def rawMix (b : BuildCfg) (m : MixInput) : Option RawDuty :=
  match b.rawMix, b.numerics with
  | .other, _ => Config.otherRawMix m
  | .reference, .exact => referenceMix m
  | .reference, .other => Config.otherMixNumerics m

/-- The operands of the mix at a chromaticity point (R110, R111). -/
def mixInput (pwmMax : Int) (b : BuildCfg) (p : ChromaPoint) : MixInput :=
  ⟨pwmMax, b.ledWarm, b.ledCold, b.lumWarm, b.lumCold, p.x, p.y⟩

/-- The raw value of an endpoint's own channel, `PWM_MAX * (LW + LC) / L` (R113). -/
def endpointRaw (pwmMax : Int) (b : BuildCfg) (l : Rat) : Option Rat :=
  match b.numerics with
  | .exact => if l = 0 then none else some (pwmMax * (b.lumWarm + b.lumCold) / l)
  | .other => Config.otherEndpointNumerics pwmMax b.lumWarm b.lumCold l

/-- Phase 1 for the intermediate temperatures (R111): each temperature with its raw pair, `none` for a pair that is not
finite. -/
def rawIntermediates (pwmMax : Int) (b : BuildCfg) : List Int → Except Fault (List (Int × Option RawDuty))
  | [] => .ok []
  | t :: ts =>
    match chromaLookup b t with
    | .error f => .error f
    | .ok p =>
      match rawIntermediates pwmMax b ts with
      | .error f => .error f
      | .ok r => .ok ((t, rawMix b (mixInput pwmMax b p)) :: r)

/-- Every raw pair finite and not negative, or `none` (R120). -/
def checkedRaw : List (Int × Option RawDuty) → Option (List (Int × RawDuty))
  | [] => some []
  | (_, none) :: _ => none
  | (t, some d) :: r =>
    if d.warm < 0 ∨ d.cold < 0 then none
    else
      match checkedRaw r with
      | none => none
      | some l => some ((t, d) :: l)

/-- `M`, the maximum over both channels of the intermediate entries (R114). The values are not negative (R120), so folding
from 0 gives the maximum, or 0 where none is positive. -/
def scaleMax : List (Int × RawDuty) → Rat
  | [] => 0
  | (_, d) :: r => max (max d.warm d.cold) (scaleMax r)

/-- One stored duty, `trunc(raw * PWM_MAX / M)` (R116). Under another arithmetic it is some integer of `[0, PWM_MAX]`, the range
spec/20_memory.md R50 gives the contents of `DT` (an endpoint's excess, which phase 4 would cut, is cut here already; log
7). -/
def rescaled (n : BuildNumerics) (pwmMax : Int) (m raw : Rat) : Int :=
  match n with
  | .exact => trunc (raw * pwmMax / m)
  | .other => withinRange pwmMax (Config.otherRescale raw pwmMax m)

/-- Phase 3 (R116): every entry rescaled and stored as an integer. -/
def rescaleTable (n : BuildNumerics) (pwmMax : Int) (m : Rat) (l : List (Int × RawDuty)) : List (Int × Duty) :=
  l.map fun e => (e.1, ⟨rescaled n pwmMax m e.2.warm, rescaled n pwmMax m e.2.cold⟩)

/-- Phase 4 (R117): the two endpoint entries clamped to `PWM_MAX`; the others kept. -/
def clampEndpoints (pwmMax tWarm tCold : Int) (l : List (Int × Duty)) : List (Int × Duty) :=
  l.map fun e =>
    if e.1 = tWarm ∨ e.1 = tCold then (e.1, ⟨min e.2.warm pwmMax, min e.2.cold pwmMax⟩) else e

/-- Phases 2 to 4 (R114 to R117) on the raw values: the warm endpoint's, the intermediate ones, the cold endpoint's. -/
def buildPhases (n : BuildNumerics) (pwmMax tWarm tCold : Int) (w : RawDuty) (l : List (Int × RawDuty)) (k : RawDuty) :
    Except BuildStop DutyTable :=
  let m := scaleMax l
  if m ≤ 0 then .error (.refusal .configNoScale)
  else
    .ok (DutyTable.ofEntries (clampEndpoints pwmMax tWarm tCold
      (rescaleTable n pwmMax m ((tWarm, w) :: (l ++ [(tCold, k)])))))

/-- `BUILD` (R119) from the builder's operands. -/
def buildTable (pwmMax tWarm tCold : Int) (b : BuildCfg) : Except BuildStop DutyTable :=
  match rawIntermediates pwmMax b (temperatures (tWarm + 1) (tCold - 1)) with
  | .error f => .error (.fault f)
  | .ok raw =>
    match checkedRaw raw, endpointRaw pwmMax b b.lumWarm, endpointRaw pwmMax b b.lumCold with
    | some l, some w, some k =>
      if w < 0 ∨ k < 0 then .error (.refusal .configRawNegative)
      else buildPhases b.numerics pwmMax tWarm tCold ⟨w, 0⟩ l ⟨0, k⟩
    | _, _, _ => .error (.refusal .configRawNegative)

/-- The table boot step 1 writes: `BUILD`'s, or the `DUTY_TABLE` "supplied directly instead of by the builder" (R8,
R119). -/
def build (c : Cfg) : Except BuildStop DutyTable :=
  match c.source with
  | .supplied t => .ok t
  | .build b => buildTable c.pwmMax c.tWarm c.tCold b

end Sys2Proof.Machine
end

