-- ==== Sys2Proof/Decode.lean ====
section
/-! DEFINITION. The event-word decoder (spec/30_encoding.md R71 to R79), total on the 65536 words, and after it the encoder,
written from the same encoding rules (R72 to R76, R84). -/

namespace Sys2Proof

/-- What a word spells (R78): exactly one event, or `RESERVED`. -/
inductive Decoded where
  | event (i : Instr)
  | reserved
deriving DecidableEq, Repr

/-- The event kind `w[15:12]` (R71). -/
def kindOf (w : EventWord) : BitVec 4 := w.extractLsb' 12 4

/-- `w[0]` of `BTN_EDGE`: `1` for the press edge (R73). -/
def edgeOf (b : BitVec 1) : Edge := if b = 1 then .press else .release

/-- `w[0]` of `DEB_TICK`: `1` for held (R74). -/
def levelOf (b : BitVec 1) : Level := if b = 1 then .held else .released

/-- The command of a character (R84, spec/46_key_commands.md R210). -/
def keyOf (c : BitVec 8) : Instr :=
  if c = 0x68 then .keyH
  else if c = 0x62 then .keyB
  else if c = 0x63 then .keyC
  else if c = 0x64 then .keyD
  else if c = 0x71 then .keyQ
  else if c = 0x61 then .keyA
  else if c = 0x77 then .keyW
  else if c = 0x73 then .keyS
  else .keyOther c

/-- The decoder of R78. -/
def decode (w : EventWord) : Decoded :=
  if kindOf w = 0x1 ∧ w.extractLsb' 2 10 = 0 then .event (.encEdge (w.extractLsb' 0 2))
  else if kindOf w = 0x2 ∧ w.extractLsb' 1 11 = 0 then .event (.btnEdge (edgeOf (w.extractLsb' 0 1)))
  else if kindOf w = 0x3 ∧ w.extractLsb' 1 11 = 0 then .event (.debTick (levelOf (w.extractLsb' 0 1)))
  else if kindOf w = 0x4 ∧ w.extractLsb' 0 12 = 0 then .event .scanTick
  else if kindOf w = 0x5 ∧ w.extractLsb' 8 4 = 0 then .event (keyOf (w.extractLsb' 0 8))
  else .reserved

/-- The word that is the low `nbits` bits of `w`: an event word has 16 bits and no operand words (R79). -/
def tableWord (nbits w : Nat) : EventWord := BitVec.ofNat 16 (w % 2 ^ nbits)

/-- The instruction the decoder reads from a table word, `none` where the word spells no event. -/
def decodeTableWord (nbits w : Nat) : Option Instr :=
  match decode (tableWord nbits w) with
  | .event i => some i
  | .reserved => none

/-- `w[0]` of a button edge (R73). -/
def edgeBit : Edge → BitVec 1
  | .release => 0
  | .press => 1

/-- `w[0]` of a debounce tick (R74). -/
def levelBit : Level → BitVec 1
  | .released => 0
  | .held => 1

/-- The word of a key event: kind `0x5`, `w[11:8] = 0`, `w[7:0] = c` (R76). -/
def keyWord (c : BitVec 8) : EventWord := (0x5#4 ++ 0#4) ++ c

/-- The encoder: the word of an event (R72 to R76), the characters as R84 lists them. -/
def encode : Instr → EventWord
  | .encEdge ab => (0x1#4 ++ 0#10) ++ ab
  | .btnEdge e => (0x2#4 ++ 0#11) ++ edgeBit e
  | .debTick l => (0x3#4 ++ 0#11) ++ levelBit l
  | .scanTick => 0x4#4 ++ 0#12
  | .keyH => keyWord 0x68
  | .keyB => keyWord 0x62
  | .keyC => keyWord 0x63
  | .keyD => keyWord 0x64
  | .keyQ => keyWord 0x71
  | .keyA => keyWord 0x61
  | .keyW => keyWord 0x77
  | .keyS => keyWord 0x73
  | .keyOther c => keyWord c

end Sys2Proof
end

