-- ==== Sys2Proof/Machine/Flags.lean ====
section
/-! DEFINITION. The block's flags, `S.mode` and `S.deb_state` (spec/10_state.md R41): the mode toggle, the suppression policy
of a mode, and the debounce transition of a tick. -/

namespace Sys2Proof.Machine

/-- The toggle intensity ↔ color (spec/44_mode_debounce_fsm.md R172). -/
def Mode.toggle : Mode → Mode
  | .intensity => .color
  | .color => .intensity

/-- A suppression policy (spec/30_encoding.md R88). -/
inductive Policy where
  | none
  | suppressLeading
  | suppressBoth
deriving DecidableEq, Repr

/-- `POLICY(mode)` (spec/45_multiplexed_7seg_driver.md R192). -/
def policyOf : Mode → Policy
  | .intensity => .suppressLeading
  | .color => .none

/-- The debounce state and countdown after a tick at level `l` (R175 to R178), `reload` being `DEB_COUNT`. -/
def debNext (reload : Int) (l : Level) : DebState → Int → DebState × Int
  | .idle, n => (.idle, n)
  | .pressed, _ => (.debouncing, reload)
  | .debouncing, n =>
    if n - 1 = 0 then
      match l with
      | .released => (.idle, 0)
      | .held => (.debouncing, reload)
    else (.debouncing, n - 1)

end Sys2Proof.Machine
end

