-- ==== Sys2Proof/Machine/Operands.lean ====
section
/-! DEFINITION. What the handlers compute their operands with: the quadrature transition code and its direction
(spec/30_encoding.md R80 to R82), the range and the counter of a mode (spec/43_quadrature_encoder_decoder.md R152), the
checked table reads (spec/20_memory.md R52, R53), and the glyph encodings (R85, R86). -/

namespace Sys2Proof.Machine

/-- The transition code `q = {prev_ab, ab}` (R80). -/
def transition (prev ab : BitVec 2) : BitVec 4 := prev ++ ab

/-- `dir(q)` under `ENC_POLARITY = +1`: the +1 set is `{0001, 0111, 1110, 1000}`, the -1 set `{0010, 1011, 1101, 0100}`
(R81). -/
def dirPlus (q : BitVec 4) : Int :=
  if q = 0b0001 ∨ q = 0b0111 ∨ q = 0b1110 ∨ q = 0b1000 then 1
  else if q = 0b0010 ∨ q = 0b1011 ∨ q = 0b1101 ∨ q = 0b0100 then -1
  else 0

/-- `dir(q)` (R81, R82): `ENC_POLARITY = -1` negates every direction. -/
def dir (p : Polarity) (q : BitVec 4) : Int :=
  match p with
  | .plus => dirPlus q
  | .minus => -dirPlus q

/-- The microstep divisor and the value range of a mode: `(div, lo, hi)` of R152. -/
structure ModeRange where
  div : Int
  lo : Int
  hi : Int
deriving DecidableEq, Repr

/-- `(DIV_INTENSITY, -1, 9)` or `(DIV_COLOR, COLOR_MIN, COLOR_MAX)` (R152). -/
def modeRange (c : Cfg) : Mode → ModeRange
  | .intensity => ⟨c.divIntensity, -1, 9⟩
  | .color => ⟨c.divColor, c.colorMin, c.colorMax⟩

/-- The raw counter of a mode (R25, R26). -/
def State.rawOf (s : State) : Mode → Int
  | .intensity => s.encRawIntensity
  | .color => s.encRawColor

/-- The committed value of a mode: `value(INTENSITY) = S.intensity`, `value(COLOR) = S.colorTemp`
(spec/44_mode_debounce_fsm.md R171). -/
def State.valueOf (s : State) : Mode → Int
  | .intensity => s.intensity
  | .color => s.colorTemp

/-- The counter after direction `d` (R155): moved by one microstep and clamped to `[lo * div, hi * div]`. -/
def rawAfter (r : ModeRange) (raw d : Int) : Int := clamp (raw + d) (r.lo * r.div) (r.hi * r.div)

/-- `BRIGHTNESS[i]` for `i` in `[0, 9]`. -/
def curveAt (c : Cfg) (i : Int) : Rat := c.brightness.getD i.toNat 0

/-- `BrightnessLookup(i)` (spec/42_brightness_curve_scaler.md R132): a fault outside `[0, 9]` (R53). -/
def brightnessLookup (c : Cfg) (i : Int) : Except Fault Rat :=
  if 0 ≤ i ∧ i ≤ 9 then .ok (curveAt c i) else .error (.intensityOutOfRange i)

/-- The read of `DT[ct]` (R52): permitted only for `ct` in `[COLOR_MIN, COLOR_MAX]`, a fault elsewhere. -/
def dtRead (c : Cfg) (dt : DutyTable) (ct : Int) : Except Fault Duty :=
  if c.colorMin ≤ ct ∧ ct ≤ c.colorMax then .ok (DutyTable.get dt ct) else .error (.dtIndexOutOfRange ct)

/-- The pair a table entry gives at curve value `b`: each channel scaled and clamped to `[0, PWM_MAX]` (R135). -/
def scaledDuty (c : Cfg) (b : Rat) (e : Duty) : Duty :=
  ⟨clamp (scale c b e.warm) 0 c.pwmMax, clamp (scale c b e.cold) 0 c.pwmMax⟩

/-- The glyph of a decimal digit, `D(n)` (R85, R191). -/
def digitGlyph (n : Int) : Glyph :=
  match n.toNat with
  | 0 => .d0
  | 1 => .d1
  | 2 => .d2
  | 3 => .d3
  | 4 => .d4
  | 5 => .d5
  | 6 => .d6
  | 7 => .d7
  | 8 => .d8
  | _ => .d9

/-- The glyph's code in a display slot (R85); codes 13 to 15 belong to no glyph. -/
def Glyph.code : Glyph → Nat
  | .d0 => 0
  | .d1 => 1
  | .d2 => 2
  | .d3 => 3
  | .d4 => 4
  | .d5 => 5
  | .d6 => 6
  | .d7 => 7
  | .d8 => 8
  | .d9 => 9
  | .blank => 10
  | .dp => 11
  | .hyphen => 12

/-- `SEG_MAP(g)` (R86). -/
def segPattern (m : SegMap) : Glyph → BitVec 8
  | .d0 => m.d0
  | .d1 => m.d1
  | .d2 => m.d2
  | .d3 => m.d3
  | .d4 => m.d4
  | .d5 => m.d5
  | .d6 => m.d6
  | .d7 => m.d7
  | .d8 => m.d8
  | .d9 => m.d9
  | .blank => m.blank
  | .dp => m.dp
  | .hyphen => m.hyphen

/-- The slot at a digit position: position 0 left, position 1 right (R31). -/
def Disp.slot (d : Disp) (k : BitVec 1) : Glyph := if k = 0 then d.left else d.right

/-- The digit-select lines that energize position `k` (R87). -/
def selectOf (k : BitVec 1) : BitVec 2 := if k = 0 then 0b01 else 0b10

/-- A percentage raised by 5, at most 100 (spec/46_key_commands.md R215, R217). -/
def pctUp (p : Int) : Int := min 100 (p + 5)

/-- A percentage lowered by 5, at least 0 (R216, R218). -/
def pctDown (p : Int) : Int := max 0 (p - 5)

/-- The brightness cycle "wraps 9→off→0" (R212). -/
def intensityNext (i : Int) : Int := if i = 9 then -1 else i + 1

end Sys2Proof.Machine
end

