-- ==== Sys2Proof/Machine/Ops.lean ====
section
/-! DEFINITION. The shared operations over the state: raising a fault and refusing (spec/60_exceptions.md R230, R234),
`PwmWrite` and `setLighting` (spec/42_brightness_curve_scaler.md R133, R135), `setDisplayValue`
(spec/45_multiplexed_7seg_driver.md R191), the auxiliary draw (spec/46_key_commands.md R219), and taking the next presented
event. -/

namespace Sys2Proof.Machine

/-- `raise Fault(reason)` (R230): the fault is recorded and nothing else of the step's state is written. There is no vector,
no saved register and no return from it (R242, R243). -/
def State.raise (s : State) (f : Fault) : State := { s with fault := some f }

/-- `refuse(reason)` (R234): the refusal is recorded and nothing else is written. -/
def State.refuse (s : State) (r : Reason) : State := { s with refused := some r }

/-- The end of a handler run on `s` (R60, R230): its writes together, or, if it raised a fault, none of them and the
fault. -/
def State.commit (s : State) : Except Fault State → State
  | .ok t => t
  | .error f => s.raise f

/-- `PwmWrite(m, ch, v)` (R133). -/
def State.pwmWrite (s : State) (m : Module) (ch : Channel) (v : Int) : State :=
  { s with pwm :=
      match m, ch with
      | .m0, .warm => { s.pwm with m0 := { s.pwm.m0 with warm := v } }
      | .m0, .cold => { s.pwm with m0 := { s.pwm.m0 with cold := v } }
      | .m1, .warm => { s.pwm with m1 := { s.pwm.m1 with warm := v } }
      | .m1, .cold => { s.pwm with m1 := { s.pwm.m1 with cold := v } } }

/-- Both channels of a module, warm first (R135). -/
def State.pwmPair (s : State) (m : Module) (d : Duty) : State :=
  (s.pwmWrite m .warm d.warm).pwmWrite m .cold d.cold

/-- `setLighting(m, ct, i)` (R135): the curve is read before the table, so its fault is the one reported (R233). -/
def setLighting (m : Module) (ct i : Int) (s : State) : Except Fault State :=
  if i = -1 then .ok (s.pwmPair m Duty.zero)
  else
    match brightnessLookup s.cfg i with
    | .error f => .error f
    | .ok b =>
      match dtRead s.cfg s.dt ct with
      | .error f => .error f
      | .ok e => .ok (s.pwmPair m (scaledDuty s.cfg b e))

/-- `setLighting` of module 0 then module 1 with the state's colour temperature and intensity (R137). -/
def driveBoth (s : State) : Except Fault State :=
  match setLighting .m0 s.colorTemp s.intensity s with
  | .error f => .error f
  | .ok t => setLighting .m1 t.colorTemp t.intensity t

/-- The two glyphs `setDisplayValue(v, p)` renders (R191, R193 to R195). -/
def render (v : Int) (p : Policy) : Disp :=
  if v < 0 then ⟨.blank, .hyphen⟩
  else if 99 < v then ⟨.d0, .d0⟩
  else
    { left := if p ≠ .none ∧ v / 10 = 0 then .blank else digitGlyph (v / 10)
      right := if p = .suppressBoth ∧ v = 0 then .blank else digitGlyph (v % 10) }

/-- `setDisplayValue(v, p)` (R191): both slots together. -/
def State.setDisplayValue (s : State) (v : Int) (p : Policy) : State := { s with disp := render v p }

/-- The display rewritten with the active mode's value under its policy (R192). -/
def State.showActive (s : State) : State := s.setDisplayValue (s.valueOf s.mode) (policyOf s.mode)

/-- The raw counter of a mode written (R155, R172). -/
def State.setRaw (s : State) (m : Mode) (v : Int) : State :=
  match m with
  | .intensity => { s with encRawIntensity := v }
  | .color => { s with encRawColor := v }

/-- The `LightingState` field of a mode written (R157). -/
def State.setValue (s : State) (m : Mode) (v : Int) : State :=
  match m with
  | .intensity => { s with intensity := v }
  | .color => { s with colorTemp := v }

/-- The k-th free duty value, drawn by the command `key`: a member of `[0, PWM_MAX]` under no law (R219, R236; log 8). -/
def freeDuty (c : Cfg) (key : BitVec 8) (k : Nat) : Int := withinRange c.pwmMax (Config.auxDuty key k)

/-- `AUX_OUTPUT` (R219), from the command `key`: each of the four PWM registers becomes a draw of its own. -/
def State.auxOutput (s : State) (key : BitVec 8) : State :=
  { s with
    pwm := ⟨⟨freeDuty s.cfg key s.draws, freeDuty s.cfg key (s.draws + 1)⟩,
            ⟨freeDuty s.cfg key (s.draws + 2), freeDuty s.cfg key (s.draws + 3)⟩⟩
    draws := s.draws + 4 }

/-- `AFTER_LIGHTING_CHANGE(which)` (R221): both modules driven, then the display if the changed value is the active
mode's. -/
def afterLightingChange (which : Mode) (s : State) : Except Fault State :=
  match driveBoth s with
  | .error f => .error f
  | .ok t => .ok (if which = t.mode then t.showActive else t)

/-- Taking the next presented event (R60, R71, R77): the first word of `inputs` is taken off; it gives the event to run on the
remaining state, or the refused state if it spells none. -/
inductive Taken where
  | nothing
  | event (i : Instr) (s : State)
  | refusedAs (s : State)

/-- See `Taken`. -/
def State.takeEvent (s : State) : Taken :=
  match s.inputs with
  | [] => .nothing
  | w :: rest =>
    match decode w with
    | .event i => .event i { s with inputs := rest }
    | .reserved => .refusedAs ({ s with inputs := rest }.refuse .reservedEvent)

/-- A word presented as the next event. -/
def State.present (s : State) (w : EventWord) : State := { s with inputs := w :: s.inputs }

end Sys2Proof.Machine
end

