-- ==== Sys2Proof/Machine/Boot.lean ====
section
/-! DEFINITION. The boot sequence (spec/70_reset_and_hazards.md R260 to R265): five atomic steps (spec/20_memory.md R60) that
take no event. -/

namespace Sys2Proof.Machine

/-- Boot step 1 (R261): a configuration that is not well-formed is refused (R9, R234); otherwise `BUILD` writes `DT`, or the
configuration is refused by it (R115, R120). -/
def bootBuild (s : State) : State :=
  if s.cfg.wellFormed = true then
    match build s.cfg with
    | .ok dt => { s with dt := dt, bootNext := .lighting }
    | .error (.fault f) => s.raise f
    | .error (.refusal r) => s.refuse r
  else s.refuse .configIllFormed

/-- Boot step 2 (R262): both modules driven with the reset `LightingState`. -/
def bootLighting (s : State) : State := s.commit (driveBoth { s with bootNext := .display })

/-- Boot step 3 (R263): the active value rendered. -/
def bootDisplay (s : State) : State := { s.showActive with bootNext := .diagnostics }

/-- Boot step 4 (R264): the diagnostic output, which changes no state of the block. -/
def bootDiagnostics (s : State) : State := { s with bootNext := .enterReady }

/-- Boot step 5 (R265). -/
def bootEnterReady (s : State) : State := { s with phase := .ready }

/-- The next boot step. -/
def bootOnce (s : State) : State :=
  match s.bootNext with
  | .build => bootBuild s
  | .lighting => bootLighting s
  | .display => bootDisplay s
  | .diagnostics => bootDiagnostics s
  | .enterReady => bootEnterReady s

/-- At most `n` boot steps, ending early at READY, at a fault or at a refusal. -/
def bootRun : Nat → State → State
  | 0, s => s
  | n + 1, s => if s.phase = .boot ∧ s.fault = none ∧ s.refused = none then bootRun n (bootOnce s) else s

end Sys2Proof.Machine
end

