-- ==== Sys2Proof/Machine/Button.lean ====
section
/-! DEFINITION. The mode and debounce state machine (spec/44_mode_debounce_fsm.md): `BTN_EDGE` and `DEB_TICK`. -/

namespace Sys2Proof.Machine

/-- A press edge in IDLE (R172): the mode toggled, the new mode's counter set to its committed value times its divisor, the
display refreshed, and PRESSED. -/
def State.pressInIdle (s : State) : State :=
  let m := s.mode.toggle
  { (({ s with mode := m } : State).setRaw m (s.valueOf m * (modeRange s.cfg m).div)).showActive with
    debState := .pressed }

/-- `BTN_EDGE(e)` (R171, R173, R174). -/
def btnEdge (e : Edge) (s : State) : State :=
  match e with
  | .release => s
  | .press => if s.debState ≠ .idle then s else s.pressInIdle

/-- The meaning of `BTN_EDGE`. -/
def execBtnEdge (e : Edge) (s : State) : Host.Outcome State Fault Refusal := .next (btnEdge e s)

/-- `DEB_TICK(l)` (R175). -/
def debTick (l : Level) (s : State) : State :=
  let n := debNext s.cfg.debCount l s.debState s.debCount
  { s with debState := n.1, debCount := n.2 }

/-- The meaning of `DEB_TICK`. -/
def execDebTick (l : Level) (s : State) : Host.Outcome State Fault Refusal := .next (debTick l s)

end Sys2Proof.Machine
end

