-- ==== Sys2Proof/Machine/Display.lean ====
section
/-! DEFINITION. The multiplexed seven-segment driver's event, `SCAN_TICK` (spec/45_multiplexed_7seg_driver.md R198). -/

namespace Sys2Proof.Machine

/-- `SCAN_TICK` (R198): the glyph at the scan position drives the segment lines, its digit alone is energized, and the other
position comes next. -/
def scanTick (s : State) : State :=
  { s with
    segOut := segPattern s.cfg.segMap (s.disp.slot s.scanPos)
    digSel := selectOf s.scanPos
    scanPos := 1 - s.scanPos }

/-- The meaning of `SCAN_TICK`. -/
def execScanTick (s : State) : Host.Outcome State Fault Refusal := .next (scanTick s)

end Sys2Proof.Machine
end

