-- ==== Sys2Proof/Machine/Encoder.lean ====
section
/-! DEFINITION. The quadrature encoder decoder (spec/43_quadrature_encoder_decoder.md): `ENC_EDGE`. -/

namespace Sys2Proof.Machine

/-- An emission (R157): the value committed to the active mode's field, the display rewritten, both modules driven. -/
def emit (v : Int) (s : State) : Except Fault State :=
  driveBoth ((s.setValue s.mode v).setDisplayValue v (policyOf s.mode))

/-- The motion part of `ENC_EDGE` (R152, R155, R156) for a direction `d`, the reading already latched. -/
def encMove (d : Int) (s : State) : Except Fault State :=
  let r := modeRange s.cfg s.mode
  let raw := rawAfter r (s.rawOf s.mode) d
  if raw % r.div = 0 then emit (raw / r.div) (s.setRaw s.mode raw) else .ok (s.setRaw s.mode raw)

/-- `ENC_EDGE(ab)` (R152): the reading is latched whatever the direction (R153). -/
def encEdge (ab : BitVec 2) (s : State) : Except Fault State :=
  let d := dir s.cfg.polarity (transition s.prevAb ab)
  if d = 0 then .ok { s with prevAb := ab } else encMove d { s with prevAb := ab }

/-- The meaning of `ENC_EDGE`. -/
def execEncEdge (ab : BitVec 2) (s : State) : Host.Outcome State Fault Refusal := .next (s.commit (encEdge ab s))

end Sys2Proof.Machine
end

