-- ==== Sys2Proof/Machine/Keys.lean ====
section
/-! DEFINITION. The key commands (spec/46_key_commands.md R210 to R221). -/

namespace Sys2Proof.Machine

/-- `KEY_h` (R211): the help text goes to the diagnostic output and no state is written. -/
def execKeyH (s : State) : Host.Outcome State Fault Refusal := .next s

/-- `KEY_b` (R212): cycle brightness. -/
def execKeyB (s : State) : Host.Outcome State Fault Refusal :=
  .next (s.commit (afterLightingChange .intensity { s with intensity := intensityNext s.intensity }))

/-- `KEY_c` (R213): colour temperature down one table step, clamped at `COLOR_MIN`. -/
def execKeyC (s : State) : Host.Outcome State Fault Refusal :=
  .next (s.commit (afterLightingChange .color { s with colorTemp := max s.cfg.colorMin (s.colorTemp - 1) }))

/-- `KEY_d` (R214): colour temperature up one table step, clamped at `COLOR_MAX`. -/
def execKeyD (s : State) : Host.Outcome State Fault Refusal :=
  .next (s.commit (afterLightingChange .color { s with colorTemp := min s.cfg.colorMax (s.colorTemp + 1) }))

/-- `KEY_q` (R215): auxiliary cold percentage up by 5. -/
def execKeyQ (s : State) : Host.Outcome State Fault Refusal :=
  .next (({ s with auxColdPct := pctUp s.auxColdPct } : State).auxOutput 0x71)

/-- `KEY_a` (R216): auxiliary cold percentage down by 5. -/
def execKeyA (s : State) : Host.Outcome State Fault Refusal :=
  .next (({ s with auxColdPct := pctDown s.auxColdPct } : State).auxOutput 0x61)

/-- `KEY_w` (R217): auxiliary warm percentage up by 5. -/
def execKeyW (s : State) : Host.Outcome State Fault Refusal :=
  .next (({ s with auxWarmPct := pctUp s.auxWarmPct } : State).auxOutput 0x77)

/-- `KEY_s` (R218): auxiliary warm percentage down by 5. -/
def execKeyS (s : State) : Host.Outcome State Fault Refusal :=
  .next (({ s with auxWarmPct := pctDown s.auxWarmPct } : State).auxOutput 0x73)

/-- `KEY_other` (R220): a character that is no command changes no state. -/
def execKeyOther (_c : BitVec 8) (s : State) : Host.Outcome State Fault Refusal := .next s

end Sys2Proof.Machine
end

