-- ==== Sys2Proof/Machine/Dispatch.lean ====
section
/-! DEFINITION. One arm per event of spec/opcode_table.json, in the table's order: the handler that takes it. -/

namespace Sys2Proof.Machine

def exec (i : Instr) (s : State) : Host.Outcome State Fault Refusal :=
  match i with
  | .encEdge ab => Sys2Proof.Machine.execEncEdge ab s
  | .btnEdge e => Sys2Proof.Machine.execBtnEdge e s
  | .debTick l => Sys2Proof.Machine.execDebTick l s
  | .scanTick => Sys2Proof.Machine.execScanTick s
  | .keyH => Sys2Proof.Machine.execKeyH s
  | .keyB => Sys2Proof.Machine.execKeyB s
  | .keyC => Sys2Proof.Machine.execKeyC s
  | .keyD => Sys2Proof.Machine.execKeyD s
  | .keyQ => Sys2Proof.Machine.execKeyQ s
  | .keyA => Sys2Proof.Machine.execKeyA s
  | .keyW => Sys2Proof.Machine.execKeyW s
  | .keyS => Sys2Proof.Machine.execKeyS s
  | .keyOther c => Sys2Proof.Machine.execKeyOther c s

end Sys2Proof.Machine
end

