-- ==== Sys2Proof/Machine/Step.lean ====
section
/-! DEFINITION. One step of the block (spec/20_memory.md R60): nothing from a faulted or refused state (R230, R234), a boot
step in BOOT, where no event is taken (R235), and in READY the handler of the next presented event. With no event presented
the block waits and its state does not change (log 6). -/

namespace Sys2Proof.Machine

/-- One step. -/
def step (s : State) : Host.Outcome State Fault Refusal :=
  match s.fault with
  | some f => .fault f
  | none =>
    match s.refused with
    | some r => .refused (.runRefused r)
    | none =>
      match s.phase with
      | .boot => .next (bootOnce s)
      | .ready =>
        match s.takeEvent with
        | .nothing => .next s
        | .event i t => exec i t
        | .refusedAs t => .next t

/-- `s` with the boot sequence finished, able to take an event, and the table word presented as the next event: the very next
step runs its handler (log 4). -/
def State.withFetchWord (s : State) (nbits w : Nat) : State :=
  { bootRun 5 s with
    phase := .ready
    fault := none
    refused := none
    inputs := tableWord nbits w :: s.inputs }

end Sys2Proof.Machine
end

