-- ==== Sys2Proof/Machine/Script.lean ====
section
/-! DEFINITION. The event-script syntax (spec/30_encoding.md R90) and its pseudo-events (R91): a script expands to the event
words the environment presents. The block never sees a script. -/

namespace Sys2Proof.Machine

/-- One line of a script (R90, R91). `cw n`, `ccw n`, `scan n` and `dtick n l` stand for `n` copies. -/
inductive ScriptLine where
  | enc (ab : BitVec 2)
  | btn (e : Edge)
  | dtick (n : Nat) (l : Level)
  | scan (n : Nat)
  | key (c : BitVec 8)
  | cw (n : Nat)
  | ccw (n : Nat)
  | click
  | word (w : EventWord)
deriving DecidableEq, Repr

/-- `next_cw`: 00->01, 01->11, 11->10, 10->00 (R91). -/
def nextCw (ab : BitVec 2) : BitVec 2 :=
  if ab = 0b00 then 0b01 else if ab = 0b01 then 0b11 else if ab = 0b11 then 0b10 else 0b00

/-- `next_ccw`: 00->10, 10->11, 11->01, 01->00 (R91). -/
def nextCcw (ab : BitVec 2) : BitVec 2 :=
  if ab = 0b00 then 0b10 else if ab = 0b10 then 0b11 else if ab = 0b11 then 0b01 else 0b00

/-- `n` encoder edges, each reading the next after the one before; and the last reading. -/
def turn (next : BitVec 2 → BitVec 2) : Nat → BitVec 2 → List EventWord × BitVec 2
  | 0, ab => ([], ab)
  | n + 1, ab =>
    let r := turn next n (next ab)
    (encode (.encEdge (next ab)) :: r.1, r.2)

/-- The words of one line, and the reading after it; a verbatim word that spells an encoder edge moves the tracked reading
too (DEDUCED, log 13). -/
def expandLine (c : Cfg) (ab : BitVec 2) : ScriptLine → List EventWord × BitVec 2
  | .enc x => ([encode (.encEdge x)], x)
  | .btn e => ([encode (.btnEdge e)], ab)
  | .dtick n l => (List.replicate n (encode (.debTick l)), ab)
  | .scan n => (List.replicate n (encode .scanTick), ab)
  | .key ch => ([keyWord ch], ab)
  | .cw n => turn nextCw n ab
  | .ccw n => turn nextCcw n ab
  | .click =>
    (encode (.btnEdge .press) :: encode (.btnEdge .release) ::
      List.replicate (c.debCount + 1).toNat (encode (.debTick .released)), ab)
  | .word w =>
    ([w], match decode w with
      | .event (.encEdge x) => x
      | _ => ab)

/-- The words of a script, from the reading `ab` of the start state (R91). -/
def expand (c : Cfg) : BitVec 2 → List ScriptLine → List EventWord
  | _, [] => []
  | ab, l :: ls =>
    let r := expandLine c ab l
    r.1 ++ expand c r.2 ls

end Sys2Proof.Machine
end

