-- ==== Sys2Proof/Safety.lean ====
section
/-! DEFINITION. What a good state of the block is: the ranges of spec/10_state.md, and a run that ends well
(spec/60_exceptions.md R254); and running several events in order (spec/20_memory.md R61). -/

namespace Sys2Proof

/-- Both duties of a pair in `[0, PWM_MAX]` (R34). -/
structure Duty.InRange (p : Int) (d : Duty) : Prop where
  warmLo : 0 ≤ d.warm
  warmHi : d.warm ≤ p
  coldLo : 0 ≤ d.cold
  coldHi : d.cold ≤ p

end Sys2Proof

namespace Sys2Proof.Machine

/-- The duties `setLighting(_, ct, i)` writes to a module where it does not fault (R135): zero when off, else the table entry
scaled by the curve and clamped. -/
def lightDuty (c : Cfg) (dt : DutyTable) (ct i : Int) : Duty :=
  if i = -1 then Duty.zero else scaledDuty c (curveAt c i) (DutyTable.get dt ct)

/-- Both modules holding the same pair (R137). -/
def Pwm.both (d : Duty) : Pwm := ⟨d, d⟩

/-- The ranges spec/10_state.md gives every element of the state (R21 to R36), and spec/20_memory.md R50 the contents of `DT`,
under a well-formed configuration, with no fault: the three faults are "not reachable from events" (R231). -/
structure State.Inv (s : State) : Prop where
  cfgWf : s.cfg.wellFormed = true
  colorLo : s.cfg.colorMin ≤ s.colorTemp
  colorHi : s.colorTemp ≤ s.cfg.colorMax
  intensityLo : -1 ≤ s.intensity
  intensityHi : s.intensity ≤ 9
  rawIntensityLo : -1 * s.cfg.divIntensity ≤ s.encRawIntensity
  rawIntensityHi : s.encRawIntensity ≤ 9 * s.cfg.divIntensity
  rawColorLo : s.cfg.colorMin * s.cfg.divColor ≤ s.encRawColor
  rawColorHi : s.encRawColor ≤ s.cfg.colorMax * s.cfg.divColor
  debCountLo : 0 ≤ s.debCount
  debCountHi : s.debCount ≤ s.cfg.debCount
  debCountLive : s.debState = .debouncing → 1 ≤ s.debCount
  noPointLeft : s.disp.left ≠ .dp
  noPointRight : s.disp.right ≠ .dp
  selOne : s.digSel ≠ 0b11
  pwm0 : s.pwm.m0.InRange s.cfg.pwmMax
  pwm1 : s.pwm.m1.InRange s.cfg.pwmMax
  auxColdLo : 0 ≤ s.auxColdPct
  auxColdHi : s.auxColdPct ≤ 100
  auxWarmLo : 0 ≤ s.auxWarmPct
  auxWarmHi : s.auxWarmPct ≤ 100
  dtWf : DutyTable.wf s.dt = true
  dtInRange : ∀ t, (DutyTable.get s.dt t).InRange s.cfg.pwmMax
  dtOutside : ∀ t, t < s.cfg.tWarm ∨ s.cfg.tCold < t → DutyTable.get s.dt t = Duty.zero
  noFault : s.fault = none

/-- In READY with neither fault nor refusal: the states that take events (R253). -/
def State.takesEvents (s : State) : Prop := s.phase = .ready ∧ s.fault = none ∧ s.refused = none

/-- A run ends well (R254). -/
def State.endsWell (s : State) : Prop := s.fault = none ∧ s.refused = none

/-- The handlers of a list of events, one after the other (R61); stops at the first that answers no next state. -/
def runEvents : List Instr → State → Host.Outcome State Fault Refusal
  | [], s => .next s
  | i :: is, s =>
    match exec i s with
    | .next t => runEvents is t
    | .fault f => .fault f
    | .refused r => .refused r

/-- `n` encoder edges from the reading `ab`, each one step along `next` (spec/30_encoding.md R91 `CW n`, `CCW n`). -/
def turnEdges (next : BitVec 2 → BitVec 2) : Nat → BitVec 2 → List Instr
  | 0, _ => []
  | n + 1, ab => .encEdge (next ab) :: turnEdges next n (next ab)

end Sys2Proof.Machine
end

