-- ==== Sys2Proof/Certificates/Slice0/Obligations.lean ====
section
/-! DEFINITION. The statements for the provers, from the numbered rules of spec/. Every one quantifies over the
configuration, which is a field of the state (log 2); `State.Inv` (Safety.lean) is the ranges of spec/10_state.md. -/

open Sys2Proof Sys2Proof.Machine

/-! ### Encoding (spec/30_encoding.md) -/

/-- Decode and encode agree on every well-formed event, with every operand at every value (R71 to R78, R84). -/
def Obligations.DecodeOfEncodeIsTheEvent : Prop :=
  ∀ i : Instr, i.wellFormed = true → decode (encode i) = .event i

/-- Which words spell which event, as numbers (R72 to R77): the decoder reads every bit where the spec puts it, and the words
outside these sets are reserved. -/
def Obligations.EventWordsAsNumbers : Prop :=
  ∀ w : EventWord,
    (∀ ab : BitVec 2, decode w = .event (.encEdge ab) ↔ w.toNat = 0x1000 + ab.toNat) ∧
    (decode w = .event (.btnEdge .release) ↔ w.toNat = 0x2000) ∧
    (decode w = .event (.btnEdge .press) ↔ w.toNat = 0x2001) ∧
    (decode w = .event (.debTick .released) ↔ w.toNat = 0x3000) ∧
    (decode w = .event (.debTick .held) ↔ w.toNat = 0x3001) ∧
    (decode w = .event .scanTick ↔ w.toNat = 0x4000) ∧
    (decode w = .event .keyH ↔ w.toNat = 0x5068) ∧
    (decode w = .event .keyB ↔ w.toNat = 0x5062) ∧
    (decode w = .event .keyC ↔ w.toNat = 0x5063) ∧
    (decode w = .event .keyD ↔ w.toNat = 0x5064) ∧
    (decode w = .event .keyQ ↔ w.toNat = 0x5071) ∧
    (decode w = .event .keyA ↔ w.toNat = 0x5061) ∧
    (decode w = .event .keyW ↔ w.toNat = 0x5077) ∧
    (decode w = .event .keyS ↔ w.toNat = 0x5073) ∧
    (∀ c : BitVec 8, decode w = .event (.keyOther c) ↔ w.toNat = 0x5000 + c.toNat ∧ c ∉ commandChars) ∧
    (decode w = .reserved ↔
      ¬(0x1000 ≤ w.toNat ∧ w.toNat ≤ 0x1003) ∧ ¬(0x2000 ≤ w.toNat ∧ w.toNat ≤ 0x2001) ∧
        ¬(0x3000 ≤ w.toNat ∧ w.toNat ≤ 0x3001) ∧ w.toNat ≠ 0x4000 ∧
        ¬(0x5000 ≤ w.toNat ∧ w.toNat ≤ 0x50FF))

/-- Words written out from the encoding rules decode to the events they stand for (R72 to R76, R84, vectors V-W1 to V-W16). -/
def Obligations.SampleWordsDecode : Prop :=
  decode 0b0001000000000011 = .event (.encEdge 0b11) ∧
  decode 0b0010000000000001 = .event (.btnEdge .press) ∧
  decode 0b0011000000000000 = .event (.debTick .released) ∧
  decode 0b0100000000000000 = .event .scanTick ∧
  decode 0b0101000001100010 = .event .keyB ∧
  decode 0b0101000001000010 = .event (.keyOther 0x42) ∧
  decode 0b0001000000000100 = .reserved ∧
  decode 0b0101000100000000 = .reserved

/-! ### Steps, refusals, holds (spec/60_exceptions.md, spec/20_memory.md) -/

/-- A state that takes events runs exactly the event its next presented word decodes to (R60, R78). That the next event is the
head of the list `inputs`, and that the rest of the list waits, is the model's choice (log 4). -/
def Obligations.StepRunsTheDecodedEvent : Prop :=
  ∀ (s : State) (w : EventWord) (rest : List EventWord) (i : Instr),
    s.takesEvents → s.inputs = w :: rest → decode w = .event i → step s = exec i { s with inputs := rest }

/-- R77: a reserved word (kind 0 or 6 to 15, or a must-be-zero bit set) spells no event; it marks the run refused and changes
nothing of the block's state. That the word is the head of the list `inputs` and is taken off it by the step that refuses it
is the model's choice (log 4). -/
def Obligations.ReservedWordRefusesTheRun : Prop :=
  ∀ (s : State) (w : EventWord) (rest : List EventWord),
    s.takesEvents → s.inputs = w :: rest →
    (w.toNat / 0x1000 = 0 ∨ 6 ≤ w.toNat / 0x1000 ∨
      (w.toNat / 0x1000 = 1 ∧ 4 ≤ w.toNat % 0x1000) ∨ (w.toNat / 0x1000 = 2 ∧ 2 ≤ w.toNat % 0x1000) ∨
      (w.toNat / 0x1000 = 3 ∧ 2 ≤ w.toNat % 0x1000) ∨ (w.toNat / 0x1000 = 4 ∧ 1 ≤ w.toNat % 0x1000) ∨
      (w.toNat / 0x1000 = 5 ∧ 0x100 ≤ w.toNat % 0x1000)) →
    decode w = .reserved ∧ step s = .next { s with inputs := rest, refused := some .reservedEvent }

/-- From a faulted or a refused state no event is taken (R230, R234); that `step` then answers the fault or the refusal is
the model's choice (log 5). -/
def Obligations.StoppedRunTakesNoEvent : Prop :=
  ∀ s : State,
    (∀ f, s.fault = some f → step s = .fault f) ∧
    (∀ r, s.fault = none → s.refused = some r → step s = .refused (.runRefused r))

/-- "After boot every state without a fault or a refusal can take every event", the spec's own inference in R253. That the
event taken is the head of the list `inputs`, and that the rest of the list is left, is the model's choice (log 4). -/
def Obligations.ReadyStateTakesEveryEvent : Prop :=
  ∀ (s : State) (i : Instr) (rest : List EventWord),
    s.takesEvents → i.wellFormed = true → s.inputs = encode i :: rest →
    ∃ t, step s = .next t ∧ t.inputs = rest

/-- R235: in BOOT the presented events wait, none is taken; and boot advances whatever is presented: with the list changed,
the step does the same to everything else. That the waiting events are the list `inputs` is the model's choice (log 4). -/
def Obligations.BootHoldsPresentedEvents : Prop :=
  ∀ (s : State) (ws : List EventWord),
    s.phase = .boot → s.fault = none → s.refused = none →
    ∃ t, step s = .next t ∧ t.inputs = s.inputs ∧
      step { s with inputs := ws } = .next { t with inputs := ws }

/-! ### The encoder (spec/43_quadrature_encoder_decoder.md) -/

/-- R81, R82, R154: the direction of every transition code under both polarities. -/
def Obligations.DirectionOfEveryTransition : Prop :=
  (∀ prev ab : BitVec 2,
    dir .plus (transition prev ab) =
      (if ab = nextCw prev then 1 else if ab = nextCcw prev then -1 else 0)) ∧
  (∀ q : BitVec 4, dir .minus q = -dir .plus q) ∧
  (∀ q : BitVec 4, dir .plus q = 1 ↔ q ∈ [0b0001, 0b0111, 0b1110, 0b1000]) ∧
  (∀ q : BitVec 4, dir .plus q = -1 ↔ q ∈ [0b0010, 0b1011, 0b1101, 0b0100]) ∧
  (∀ q : BitVec 4, dir .plus q = 0 ∨ dir .plus q = 1 ∨ dir .plus q = -1)

/-- R83: the zero codes, a repeat and a double change, are no errors and no motion: the reading is latched and nothing else
changes, so a double change loses the step it stood for. -/
def Obligations.NoMotionOnlyLatchesTheReading : Prop :=
  ∀ (s : State) (ab : BitVec 2),
    (ab = s.prevAb ∨ ab = ~~~s.prevAb) → exec (.encEdge ab) s = .next { s with prevAb := ab }

/-- R153: `prev_ab` takes the current reading on every `ENC_EDGE`, whatever its direction. -/
def Obligations.ReadingIsAlwaysLatched : Prop :=
  ∀ (s : State) (ab : BitVec 2), s.Inv → ∃ t, exec (.encEdge ab) s = .next t ∧ t.prevAb = ab

/-- R155, R156: a non-zero direction moves the active counter by one microstep, clamped; where the clamped counter is no
multiple of the divisor nothing is emitted and nothing else but the latched reading changes. One clause per mode. (That one
event is one microstep is the spec's inference in R155.) -/
def Obligations.MotionWithoutEmission : Prop :=
  ∀ (s : State) (ab : BitVec 2),
    dir s.cfg.polarity (transition s.prevAb ab) ≠ 0 →
    (s.mode = .intensity → ∀ raw : Int,
      raw = min (max (s.encRawIntensity + dir s.cfg.polarity (transition s.prevAb ab)) (-1 * s.cfg.divIntensity))
        (9 * s.cfg.divIntensity) →
      ¬ s.cfg.divIntensity ∣ raw →
      exec (.encEdge ab) s = .next { s with prevAb := ab, encRawIntensity := raw }) ∧
    (s.mode = .color → ∀ raw : Int,
      raw = min (max (s.encRawColor + dir s.cfg.polarity (transition s.prevAb ab)) (s.cfg.colorMin * s.cfg.divColor))
        (s.cfg.colorMax * s.cfg.divColor) →
      ¬ s.cfg.divColor ∣ raw →
      exec (.encEdge ab) s = .next { s with prevAb := ab, encRawColor := raw })

/-- R156, R157: where the clamped counter is `v` times the divisor, `v` is committed to the active mode's field, the display
is rewritten with it under the mode's policy, and both modules are driven. One clause per mode. -/
def Obligations.EmissionCommitsTheQuotient : Prop :=
  ∀ (s : State) (ab : BitVec 2) (v : Int), s.Inv →
    dir s.cfg.polarity (transition s.prevAb ab) ≠ 0 →
    (s.mode = .intensity →
      v * s.cfg.divIntensity =
        min (max (s.encRawIntensity + dir s.cfg.polarity (transition s.prevAb ab)) (-1 * s.cfg.divIntensity))
          (9 * s.cfg.divIntensity) →
      -1 ≤ v ∧ v ≤ 9 ∧
      exec (.encEdge ab) s = .next { s with
        prevAb := ab
        encRawIntensity := v * s.cfg.divIntensity
        intensity := v
        disp := render v .suppressLeading
        pwm := Pwm.both (lightDuty s.cfg s.dt s.colorTemp v) }) ∧
    (s.mode = .color →
      v * s.cfg.divColor =
        min (max (s.encRawColor + dir s.cfg.polarity (transition s.prevAb ab)) (s.cfg.colorMin * s.cfg.divColor))
          (s.cfg.colorMax * s.cfg.divColor) →
      s.cfg.colorMin ≤ v ∧ v ≤ s.cfg.colorMax ∧
      exec (.encEdge ab) s = .next { s with
        prevAb := ab
        encRawColor := v * s.cfg.divColor
        colorTemp := v
        disp := render v .none
        pwm := Pwm.both (lightDuty s.cfg s.dt v s.intensity) })

/-- R159: only the active mode's counter moves; the other keeps its value until a press taken in IDLE toggles the mode. -/
def Obligations.InactiveCounterKeepsItsValue : Prop :=
  ∀ (i : Instr) (s t : State), exec i s = .next t →
    (s.mode = .intensity → t.encRawColor ≠ s.encRawColor → i = .btnEdge .press ∧ s.debState = .idle ∧ t.mode = .color) ∧
    (s.mode = .color → t.encRawIntensity ≠ s.encRawIntensity →
      i = .btnEdge .press ∧ s.debState = .idle ∧ t.mode = .intensity)

/-- R158: at a bound a microstep beyond it is absorbed, the counter stays, and the bound is emitted again, even where a key
command had changed the value (R163). Both rules are the spec's own inferences. One clause per bound; the mode is either. -/
def Obligations.AbsorbedStepEmitsTheBound : Prop :=
  ∀ (s : State) (ab : BitVec 2), s.Inv →
    (dir s.cfg.polarity (transition s.prevAb ab) = 1 →
      s.rawOf s.mode = (modeRange s.cfg s.mode).hi * (modeRange s.cfg s.mode).div →
      ∃ t, exec (.encEdge ab) s = .next t ∧ t.rawOf s.mode = s.rawOf s.mode ∧
        t.valueOf s.mode = (modeRange s.cfg s.mode).hi ∧
        t.disp = render (modeRange s.cfg s.mode).hi (policyOf s.mode)) ∧
    (dir s.cfg.polarity (transition s.prevAb ab) = -1 →
      s.rawOf s.mode = (modeRange s.cfg s.mode).lo * (modeRange s.cfg s.mode).div →
      ∃ t, exec (.encEdge ab) s = .next t ∧ t.rawOf s.mode = s.rawOf s.mode ∧
        t.valueOf s.mode = (modeRange s.cfg s.mode).lo ∧
        t.disp = render (modeRange s.cfg s.mode).lo (policyOf s.mode))

/-- R161, the microstep emission law, which the spec infers from R155 and R156: from a counter at `k` times the divisor with
the value at `k` below the upper bound, `n` clockwise edges leave the counter `n` higher, and the value at `k` until the
divisor-th edge, which emits `k + 1`. -/
def Obligations.DivisorClockwiseEdgesEmitOnce : Prop :=
  ∀ (s : State) (k : Int) (n : Nat), s.Inv → s.cfg.polarity = .plus →
    s.rawOf s.mode = k * (modeRange s.cfg s.mode).div → s.valueOf s.mode = k →
    k < (modeRange s.cfg s.mode).hi → (n : Int) ≤ (modeRange s.cfg s.mode).div →
    ∃ t, runEvents (turnEdges nextCw n s.prevAb) s = .next t ∧
      t.mode = s.mode ∧
      t.rawOf s.mode = k * (modeRange s.cfg s.mode).div + n ∧
      t.valueOf s.mode = (if (n : Int) = (modeRange s.cfg s.mode).div then k + 1 else k)

/-- R162: a microstep that the clamp does not absorb, then its inverse transition, returns the counter to its value; a `+1`
absorbed at the upper bound and then a `-1` leaves it one below (the spec's inference from R155). -/
def Obligations.StepAndItsInverseReturnTheCounter : Prop :=
  ∀ (s : State) (ab : BitVec 2), s.Inv →
    (dir s.cfg.polarity (transition s.prevAb ab) ≠ 0 →
      (modeRange s.cfg s.mode).lo * (modeRange s.cfg s.mode).div ≤
        s.rawOf s.mode + dir s.cfg.polarity (transition s.prevAb ab) →
      s.rawOf s.mode + dir s.cfg.polarity (transition s.prevAb ab) ≤
        (modeRange s.cfg s.mode).hi * (modeRange s.cfg s.mode).div →
      ∃ t, runEvents [.encEdge ab, .encEdge s.prevAb] s = .next t ∧ t.rawOf s.mode = s.rawOf s.mode) ∧
    (dir s.cfg.polarity (transition s.prevAb ab) = 1 →
      s.rawOf s.mode = (modeRange s.cfg s.mode).hi * (modeRange s.cfg s.mode).div →
      (modeRange s.cfg s.mode).lo < (modeRange s.cfg s.mode).hi →
      ∃ t, runEvents [.encEdge ab, .encEdge s.prevAb] s = .next t ∧ t.rawOf s.mode = s.rawOf s.mode - 1)

/-- R276: with the counter synchronised, two presses of `d` raise the colour temperature, and one clockwise and one
counter-clockwise microstep bring back the value of the counter, undoing the key commands (the spec's inference from R27,
R157, R172). -/
def Obligations.StaleCounterUndoesTheKeys : Prop :=
  ∀ (s : State) (k : Int), s.Inv → s.cfg.polarity = .plus → s.mode = .color →
    s.encRawColor = k * s.cfg.divColor → s.colorTemp = k → k < s.cfg.colorMax →
    ∃ u t, runEvents [.keyD, .keyD] s = .next u ∧ k < u.colorTemp ∧
      runEvents [.encEdge (nextCw s.prevAb), .encEdge s.prevAb] u = .next t ∧
      t.colorTemp = k ∧ t.encRawColor = k * s.cfg.divColor

/-! ### The button (spec/44_mode_debounce_fsm.md) -/

/-- R172: a press edge in IDLE toggles the mode, sets the new mode's counter to its committed value times its divisor,
refreshes the display with the new mode's value and policy, and goes to PRESSED; nothing else changes. That no PWM register
changes is the spec's inference from the quoted sentence of R172, which names no Output Driver call. -/
def Obligations.PressInIdleTogglesTheMode : Prop :=
  ∀ s : State, s.debState = .idle →
    (s.mode = .intensity → exec (.btnEdge .press) s = .next { s with
      mode := .color
      encRawColor := s.colorTemp * s.cfg.divColor
      disp := render s.colorTemp .none
      debState := .pressed }) ∧
    (s.mode = .color → exec (.btnEdge .press) s = .next { s with
      mode := .intensity
      encRawIntensity := s.intensity * s.cfg.divIntensity
      disp := render s.intensity .suppressLeading
      debState := .pressed })

/-- R173, R174: a press edge while PRESSED or DEBOUNCING, and a release edge in any state, have no effect. -/
def Obligations.OtherButtonEdgesAreIgnored : Prop :=
  ∀ s : State,
    (s.debState ≠ .idle → exec (.btnEdge .press) s = .next s) ∧ exec (.btnEdge .release) s = .next s

/-- R176 to R178: the debounce tick in each state. -/
def Obligations.DebounceTickInEachState : Prop :=
  ∀ (s : State) (l : Level),
    (s.debState = .idle → exec (.debTick l) s = .next s) ∧
    (s.debState = .pressed →
      exec (.debTick l) s = .next { s with debState := .debouncing, debCount := s.cfg.debCount }) ∧
    (s.debState = .debouncing → s.debCount ≠ 1 →
      exec (.debTick l) s = .next { s with debCount := s.debCount - 1 }) ∧
    (s.debState = .debouncing → s.debCount = 1 → l = .released →
      exec (.debTick l) s = .next { s with debState := .idle, debCount := 0 }) ∧
    (s.debState = .debouncing → s.debCount = 1 → l = .held →
      exec (.debTick l) s = .next { s with debCount := s.cfg.debCount })

/-- R179: from PRESSED, whatever the levels, the machine is not back in IDLE after `DEB_COUNT` ticks or fewer; the next tick
is the expiry tick, which returns to IDLE if the level is released and re-arms the countdown if it is held; and from the
re-armed countdown `DEB_COUNT` ticks, the last released, and no fewer, return to IDLE. The spec infers it from R177 and
R178. -/
def Obligations.DebounceTakesCountPlusOneTicks : Prop :=
  ∀ (s : State) (ls : List Level), s.Inv →
    (s.debState = .pressed → (ls.length : Int) ≤ s.cfg.debCount →
      ∃ t, runEvents (ls.map Instr.debTick) s = .next t ∧ t.debState ≠ .idle) ∧
    (s.debState = .pressed → (ls.length : Int) = s.cfg.debCount →
      (∃ t, runEvents ((ls ++ [Level.released]).map Instr.debTick) s = .next t ∧ t.debState = .idle) ∧
      (∃ t, runEvents ((ls ++ [Level.held]).map Instr.debTick) s = .next t ∧
        t.debState = .debouncing ∧ t.debCount = s.cfg.debCount)) ∧
    (s.debState = .debouncing → s.debCount = s.cfg.debCount → (ls.length : Int) < s.cfg.debCount →
      ∃ t, runEvents (ls.map Instr.debTick) s = .next t ∧ t.debState = .debouncing) ∧
    (s.debState = .debouncing → s.debCount = s.cfg.debCount → (ls.length : Int) + 1 = s.cfg.debCount →
      ∃ t, runEvents ((ls ++ [Level.released]).map Instr.debTick) s = .next t ∧ t.debState = .idle)

/-- R180: a press edge in IDLE, then any button edges and `DEB_COUNT` ticks with the button released in any order, then one
more such tick: the mode is toggled exactly once and the machine is in IDLE; the lighting, the PWM registers and the segment
and digit-select lines are as before. The spec infers it from R171 to R179. -/
def Obligations.OnePressTogglesOnce : Prop :=
  ∀ (s : State) (es : List Instr), s.Inv → s.debState = .idle →
    (∀ e ∈ es, e = .debTick .released ∨ ∃ b, e = .btnEdge b) →
    (es.count (.debTick .released) : Int) = s.cfg.debCount →
    ∃ t, runEvents (.btnEdge .press :: es ++ [.debTick .released]) s = .next t ∧
      t.mode = s.mode.toggle ∧ t.debState = .idle ∧
      t.colorTemp = s.colorTemp ∧ t.intensity = s.intensity ∧ t.pwm = s.pwm ∧ t.segOut = s.segOut ∧ t.digSel = s.digSel

/-- R278: while the button is held no tick leads back to IDLE and no edge toggles the mode again. -/
def Obligations.HeldButtonNeverTogglesAgain : Prop :=
  ∀ (s : State) (es : List Instr), s.Inv → s.debState ≠ .idle →
    (∀ e ∈ es, e = .debTick .held ∨ ∃ b, e = .btnEdge b) →
    ∃ t, runEvents es s = .next t ∧ t.mode = s.mode ∧ t.debState ≠ .idle ∧ t.disp = s.disp

/-! ### The display (spec/45_multiplexed_7seg_driver.md) -/

/-- R193, R194: every negative value renders blank and hyphen, every value above 99 renders `00`, under every policy. -/
def Obligations.OutOfRangeValuesRender : Prop :=
  ∀ (v : Int) (p : Policy),
    (v < 0 → render v p = ⟨.blank, .hyphen⟩) ∧ (99 < v → render v p = ⟨.d0, .d0⟩)

/-- R191, R195: a value of `[0, 99]` is shown by the digits whose codes are its decimal digits; a leading zero is blanked by
the two suppressing policies, and a lone zero by `SUPPRESS_BOTH`. -/
def Obligations.RenderShowsTheDecimalDigits : Prop :=
  ∀ v : Int, 0 ≤ v → v ≤ 99 →
    ((10 * (render v .none).left.code + (render v .none).right.code : Nat) : Int) = v ∧
    (render v .none).left.code ≤ 9 ∧ (render v .none).right.code ≤ 9 ∧
    (10 ≤ v → render v .suppressLeading = render v .none ∧ render v .suppressBoth = render v .none) ∧
    (v < 10 → render v .suppressLeading = ⟨.blank, (render v .none).right⟩) ∧
    (1 ≤ v → render v .suppressBoth = render v .suppressLeading) ∧
    (v = 0 → render v .suppressBoth = ⟨.blank, .blank⟩)

/-- R198: the scan tick drives the pattern of the slot at the scan position, energizes that digit alone and moves to the
other position; nothing else changes. And the patterns of the default `SEG_MAP`, in the order of
R86's table: the spec's own decision there, "from general knowledge, not in source". -/
def Obligations.ScanTickDrivesOneDigit : Prop :=
  (∀ s : State,
    (s.scanPos = 0 → exec .scanTick s = .next { s with
      segOut := segPattern s.cfg.segMap s.disp.left, digSel := 0b01, scanPos := 1 }) ∧
    (s.scanPos = 1 → exec .scanTick s = .next { s with
      segOut := segPattern s.cfg.segMap s.disp.right, digSel := 0b10, scanPos := 0 })) ∧
  [Glyph.d0, .d1, .d2, .d3, .d4, .d5, .d6, .d7, .d8, .d9, .blank, .dp, .hyphen].map (segPattern {}) =
    [0x3F, 0x06, 0x5B, 0x4F, 0x66, 0x6D, 0x7D, 0x07, 0x7F, 0x6F, 0x00, 0x80, 0x40]

/-- R198, R199: any run of scan ticks of even length returns to the position it started at, and, if it is not empty, leaves
the other digit driven; after an odd number the other position is next. The spec infers it from R198. -/
def Obligations.ScanTicksAlternateTheDigits : Prop :=
  ∀ (s : State) (n : Nat),
    (∃ t, runEvents (List.replicate (2 * n) .scanTick) s = .next t ∧ t.scanPos = s.scanPos ∧ t.disp = s.disp ∧
      (0 < n → t.digSel = selectOf (1 - s.scanPos) ∧
        t.segOut = segPattern s.cfg.segMap (s.disp.slot (1 - s.scanPos)))) ∧
    (∃ t, runEvents (List.replicate (2 * n + 1) .scanTick) s = .next t ∧ t.scanPos = 1 - s.scanPos ∧ t.disp = s.disp ∧
      t.digSel = selectOf s.scanPos ∧ t.segOut = segPattern s.cfg.segMap (s.disp.slot s.scanPos))

/-- R200: no event but the scan tick writes `scan_pos`, `seg_out` or `dig_sel`; the scan tick reads the display buffer and
the scan position only, and never writes the buffer. -/
def Obligations.ScanOutputsBelongToTheScanTick : Prop :=
  (∀ (i : Instr) (s t : State), exec i s = .next t → i ≠ .scanTick →
    t.scanPos = s.scanPos ∧ t.segOut = s.segOut ∧ t.digSel = s.digSel) ∧
  (∀ s u t v : State, s.disp = u.disp → s.scanPos = u.scanPos → s.cfg.segMap = u.cfg.segMap →
    exec .scanTick s = .next t → exec .scanTick u = .next v →
    t.segOut = v.segOut ∧ t.digSel = v.digSel ∧ t.scanPos = v.scanPos ∧ t.disp = s.disp)

/-! ### The output driver (spec/42_brightness_curve_scaler.md) -/

/-- R136: with the intensity off, both channels of the module are zero whatever the colour temperature, and there is no
fault; nothing else changes. -/
def Obligations.LightingOffWritesZero : Prop :=
  ∀ (s : State) (ct : Int),
    setLighting .m0 ct (-1) s = .ok { s with pwm := ⟨⟨0, 0⟩, s.pwm.m1⟩ } ∧
    setLighting .m1 ct (-1) s = .ok { s with pwm := ⟨s.pwm.m0, ⟨0, 0⟩⟩ }

/-- R135: with both indices in range a module's channels take the scaled entry, clamped to `[0, PWM_MAX]`; the other module
and the rest of the state are as before. And what the scaling is (R134), for the two scalings the spec gives (log 7): a curve
value of 1 gives the entry unchanged; a binary32 curve value `k / 2^n` whose product with the entry is a binary32 value too
gives that product truncated; where the product is no binary32 value the two differ as in vector V-S6; and of every curve
value they truncate the rounded product, or the exact one, of the rounded curve value and the entry. `fl32` gives a value of
the form `k * 2^e` with at most 24 significant bits, none of that form is nearer, and midway between two neighbours it gives
the even one. (The bound `2^-149` on `2^e` is IEEE 754's, log 9.) -/
def Obligations.LightingWritesTheScaledEntry : Prop :=
  (∀ (s : State) (ct i : Int) (b : Rat) (d : Duty),
    0 ≤ i → i ≤ 9 → s.cfg.colorMin ≤ ct → ct ≤ s.cfg.colorMax →
    s.cfg.brightness[i.toNat]? = some b → DutyTable.get s.dt ct = d →
    setLighting .m0 ct i s = .ok { s with pwm :=
      ⟨⟨min (max (scale s.cfg b d.warm) 0) s.cfg.pwmMax, min (max (scale s.cfg b d.cold) 0) s.cfg.pwmMax⟩, s.pwm.m1⟩ } ∧
    setLighting .m1 ct i s = .ok { s with pwm :=
      ⟨s.pwm.m0, ⟨min (max (scale s.cfg b d.warm) 0) s.cfg.pwmMax, min (max (scale s.cfg b d.cold) 0) s.cfg.pwmMax⟩⟩ }) ∧
  (∀ (c : Cfg) (d : Int), c.scaleFn ≠ .other → 0 ≤ d → d ≤ 2 ^ 24 → scale c 1 d = d) ∧
  (∀ (c : Cfg) (k n : Nat) (d : Int), c.scaleFn ≠ .other → k ≤ 2 ^ 24 → n ≤ 149 → 0 ≤ d → d ≤ 2 ^ 24 → k * d ≤ 2 ^ 24 →
    scale c ((k : Rat) / 2 ^ n) d = k * d / 2 ^ n) ∧
  (scaleBinary32 (7/10) 10 = 7 ∧ scaleExact (7/10) 10 = 6) ∧
  (∀ (c : Cfg) (b : Rat) (d : Int), 0 ≤ d → d ≤ 2 ^ 24 →
    (c.scaleFn = .binary32 → scale c b d = trunc (fl32 (fl32 b * d))) ∧
    (c.scaleFn = .exactProduct → scale c b d = trunc (fl32 b * d))) ∧
  (∀ (k : Nat) (e : Int), k < 2 ^ 24 → -149 ≤ e → 2 ^ 23 ≤ k ∨ e = -149 →
    fl32 ((k + 1 / 2) * 2 ^ e) = ((if k % 2 = 0 then k else k + 1 : Nat) : Rat) * 2 ^ e) ∧
  (∀ x : Rat, 0 ≤ x →
    (∃ (k : Nat) (e : Int), k ≤ 2 ^ 24 ∧ -149 ≤ e ∧ fl32 x = (k : Rat) * 2 ^ e) ∧
    ∀ (k : Nat) (e : Int), k ≤ 2 ^ 24 → -149 ≤ e → |fl32 x - x| ≤ |(k : Rat) * 2 ^ e - x|)

/-- R52, R53, R233: the fault of an index out of range, the intensity's first, with the value that failed. And R230: a handler
that faults writes nothing but the fault, and so does a step, boot's steps included, but that the word of the event it took
has left `inputs` (log 4). -/
def Obligations.LightingFaultsInOrder : Prop :=
  (∀ (s : State) (m : Module) (ct i : Int),
    (i < -1 ∨ 9 < i → setLighting m ct i s = .error (.intensityOutOfRange i)) ∧
    (0 ≤ i → i ≤ 9 → ct < s.cfg.colorMin ∨ s.cfg.colorMax < ct →
      setLighting m ct i s = .error (.dtIndexOutOfRange ct)) ∧
    (∀ f, setLighting m ct i s = .error f →
      s.commit (setLighting m ct i s) = { s with fault := some f })) ∧
  (∀ (i : Instr) (s t : State), exec i s = .next t → s.fault = none → t.fault ≠ none →
    t = { s with fault := t.fault }) ∧
  (∀ s t : State, step s = .next t → t.fault ≠ none → t = { s with inputs := t.inputs, fault := t.fault })

/-- R139: under the default and the exact scaling, a curve value of `(0, 1]` and a duty of `[0, PWM_MAX]` scale to a value
from 0 to the duty, so the clamp is never active in a well-formed configuration: the spec's inference from R130 and R134, for
the two scalings the spec gives (of a substituted one nothing is known, log 7). -/
def Obligations.ScalingNeverExceedsTheEntry : Prop :=
  ∀ (c : Cfg) (b : Rat) (d : Int), c.wellFormed = true → c.scaleFn ≠ .other → b ∈ c.brightness →
    0 ≤ d → d ≤ c.pwmMax →
    0 ≤ scale c b d ∧ scale c b d ≤ d ∧ clamp (scale c b d) 0 c.pwmMax = scale c b d

/-- R140: for a fixed colour temperature and channel the written duty does not fall as the intensity rises, from off to 9: the
spec's inference from R130, R134 and R135, for the two scalings the spec gives (log 7). -/
def Obligations.DutyRisesWithIntensity : Prop :=
  ∀ (c : Cfg) (dt : DutyTable) (ct i j : Int), c.wellFormed = true → c.scaleFn ≠ .other →
    (DutyTable.get dt ct).InRange c.pwmMax → -1 ≤ i → i ≤ j → j ≤ 9 →
    (lightDuty c dt ct i).warm ≤ (lightDuty c dt ct j).warm ∧
      (lightDuty c dt ct i).cold ≤ (lightDuty c dt ct j).cold

/-- R137: after any event that changes `LightingState`, both modules hold the duties of the new values. -/
def Obligations.LightingChangeDrivesBothModules : Prop :=
  ∀ (i : Instr) (s t : State), exec i s = .next t →
    t.colorTemp ≠ s.colorTemp ∨ t.intensity ≠ s.intensity →
    t.pwm = ⟨lightDuty t.cfg t.dt t.colorTemp t.intensity, lightDuty t.cfg t.dt t.colorTemp t.intensity⟩

/-! ### Key commands (spec/46_key_commands.md) -/

/-- R211, R220: help and a character that is no command change no state. -/
def Obligations.HelpAndOtherKeysChangeNothing : Prop :=
  ∀ (s : State) (c : BitVec 8), exec .keyH s = .next s ∧ exec (.keyOther c) s = .next s

/-- R212, R221: `b` cycles the brightness `…, 9, -1, 0, …`, drives both modules, and rewrites the display in INTENSITY mode;
the counters are not written. -/
def Obligations.KeyBCyclesBrightness : Prop :=
  ∀ (s : State) (i : Int), s.Inv → (s.intensity = 9 ∧ i = -1 ∨ s.intensity ≠ 9 ∧ i = s.intensity + 1) →
    exec .keyB s = .next { s with
      intensity := i
      pwm := Pwm.both (lightDuty s.cfg s.dt s.colorTemp i)
      disp := if s.mode = .intensity then render i .suppressLeading else s.disp }

/-- R213, R214, R221: `c` lowers the colour temperature one step, not below `COLOR_MIN`; `d` raises it one step, not above
`COLOR_MAX`; both modules are driven and the display is rewritten in COLOR mode; the counters are not written. -/
def Obligations.KeysCAndDStepTheColour : Prop :=
  ∀ (s : State) (ct : Int), s.Inv →
    ((s.colorTemp = s.cfg.colorMin ∧ ct = s.cfg.colorMin ∨ s.colorTemp ≠ s.cfg.colorMin ∧ ct = s.colorTemp - 1) →
      exec .keyC s = .next { s with
        colorTemp := ct
        pwm := Pwm.both (lightDuty s.cfg s.dt ct s.intensity)
        disp := if s.mode = .color then render ct .none else s.disp }) ∧
    ((s.colorTemp = s.cfg.colorMax ∧ ct = s.cfg.colorMax ∨ s.colorTemp ≠ s.cfg.colorMax ∧ ct = s.colorTemp + 1) →
      exec .keyD s = .next { s with
        colorTemp := ct
        pwm := Pwm.both (lightDuty s.cfg s.dt ct s.intensity)
        disp := if s.mode = .color then render ct .none else s.disp })

/-- R215 to R219: each auxiliary key moves its percentage by 5 within 0 to 100 and leaves each of the four PWM registers some
value of `[0, PWM_MAX]`, its own draws; nothing else of the block changes. The counter of draws is the model's own (log 8). -/
def Obligations.AuxKeysMoveThePercentage : Prop :=
  ∀ s : State, 0 ≤ s.cfg.pwmMax →
    (∃ p : Pwm, p.m0.InRange s.cfg.pwmMax ∧ p.m1.InRange s.cfg.pwmMax ∧
      exec .keyQ s = .next { s with auxColdPct := min 100 (s.auxColdPct + 5), pwm := p, draws := s.draws + 4 }) ∧
    (∃ p : Pwm, p.m0.InRange s.cfg.pwmMax ∧ p.m1.InRange s.cfg.pwmMax ∧
      exec .keyA s = .next { s with auxColdPct := max 0 (s.auxColdPct - 5), pwm := p, draws := s.draws + 4 }) ∧
    (∃ p : Pwm, p.m0.InRange s.cfg.pwmMax ∧ p.m1.InRange s.cfg.pwmMax ∧
      exec .keyW s = .next { s with auxWarmPct := min 100 (s.auxWarmPct + 5), pwm := p, draws := s.draws + 4 }) ∧
    (∃ p : Pwm, p.m0.InRange s.cfg.pwmMax ∧ p.m1.InRange s.cfg.pwmMax ∧
      exec .keyS s = .next { s with auxWarmPct := max 0 (s.auxWarmPct - 5), pwm := p, draws := s.draws + 4 })

/-- R219: after an auxiliary command the next lighting update defines the registers again, whatever was drawn: two states
that differ only in the PWM registers are the same after `b`, `c`, `d` and an encoder edge that emits. -/
def Obligations.LightingUpdateForgetsTheDraws : Prop :=
  ∀ (s : State) (p : Pwm), s.Inv →
    exec .keyB { s with pwm := p } = exec .keyB s ∧
    exec .keyC { s with pwm := p } = exec .keyC s ∧
    exec .keyD { s with pwm := p } = exec .keyD s ∧
    ∀ ab : BitVec 2, dir s.cfg.polarity (transition s.prevAb ab) ≠ 0 →
      (modeRange s.cfg s.mode).div ∣
        min (max (s.rawOf s.mode + dir s.cfg.polarity (transition s.prevAb ab))
          ((modeRange s.cfg s.mode).lo * (modeRange s.cfg s.mode).div))
          ((modeRange s.cfg s.mode).hi * (modeRange s.cfg s.mode).div) →
      exec (.encEdge ab) { s with pwm := p } = exec (.encEdge ab) s

/-! ### Whole-machine rules (spec/10_state.md, spec/20_memory.md) -/

/-- R42: which fields each trigger's handlers can write: everything else is as it was. -/
def Obligations.WritersByTrigger : Prop :=
  ∀ (i : Instr) (s t : State), exec i s = .next t →
    (i.trigger = .edge →
      t = { s with
        colorTemp := t.colorTemp, intensity := t.intensity, mode := t.mode
        encRawIntensity := t.encRawIntensity, encRawColor := t.encRawColor, prevAb := t.prevAb
        debState := t.debState, disp := t.disp, pwm := t.pwm, fault := t.fault }) ∧
    (i.trigger = .scan → t = { s with scanPos := t.scanPos, segOut := t.segOut, digSel := t.digSel }) ∧
    ((∃ l, i = .debTick l) → t = { s with debState := t.debState, debCount := t.debCount }) ∧
    (i.trigger = .loop → (∀ l, i ≠ .debTick l) →
      t = { s with
        colorTemp := t.colorTemp, intensity := t.intensity, auxColdPct := t.auxColdPct, auxWarmPct := t.auxWarmPct
        disp := t.disp, pwm := t.pwm, fault := t.fault, draws := t.draws })

/-- R24, R246: only a press edge taken in IDLE changes the mode, and it toggles it. (That the event taken is the head of
`inputs` is the model's choice, log 4.) -/
def Obligations.ModeChangesOnlyByAPressInIdle : Prop :=
  ∀ s t : State, step s = .next t → t.mode ≠ s.mode →
    t.mode = s.mode.toggle ∧ s.debState = .idle ∧ s.takesEvents ∧
      ∃ rest, s.inputs = 0x2001 :: rest

/-- R23: `LightingState` is changed only by the encoder and the keys `b`, `c`, `d`. -/
def Obligations.LightingStateWriters : Prop :=
  ∀ (i : Instr) (s t : State), exec i s = .next t →
    (t.intensity ≠ s.intensity → (∃ ab, i = .encEdge ab) ∧ s.mode = .intensity ∨ i = .keyB) ∧
    (t.colorTemp ≠ s.colorTemp → (∃ ab, i = .encEdge ab) ∧ s.mode = .color ∨ i = .keyC ∨ i = .keyD)

/-- R197: an event that changes the active mode's value leaves the display showing the new value under the mode's policy, and
an event that is neither an encoder edge, a press nor a lighting key leaves the display alone. (The spec infers the list of
callers.) -/
def Obligations.DisplayFollowsTheActiveValue : Prop :=
  ∀ (i : Instr) (s t : State), exec i s = .next t →
    (t.valueOf t.mode ≠ s.valueOf s.mode ∨ t.mode ≠ s.mode →
      t.disp = render (t.valueOf t.mode) (policyOf t.mode)) ∧
    (t.disp ≠ s.disp →
      (∃ ab, i = .encEdge ab) ∨ i = .btnEdge .press ∨ i = .keyB ∨ i = .keyC ∨ i = .keyD)

/-- R54, R123, R270: `DT` is written by the builder's boot step and by nothing else, so every entry reads the same after any
event. That the builder is the boot step `bootNext = .build`, one step of its own, is the model's choice (log 5);
that it writes the configuration's own table where that supplies one is the model's deduction (log 10). -/
def Obligations.DutyTableIsReadOnlyAfterBoot : Prop :=
  ∀ s t : State, step s = .next t →
    (s.phase = .ready → t.dt = s.dt ∧ t.phase = .ready ∧ ∀ u, DutyTable.get t.dt u = DutyTable.get s.dt u) ∧
    (t.dt ≠ s.dt → s.phase = .boot ∧ s.bootNext = .build ∧ build s.cfg = .ok t.dt)

/-- R40: no step changes the configuration. -/
def Obligations.ConfigurationNeverChanges : Prop :=
  ∀ s t : State, step s = .next t → t.cfg = s.cfg

/-- No event faults in a state whose elements are in range, and none refuses: the spec's inferences in R138 and R224, and the
last column of R231. -/
def Obligations.NoEventFaults : Prop :=
  ∀ (i : Instr) (s : State), s.Inv → ∃ t, exec i s = .next t ∧ t.fault = none ∧ t.refused = s.refused

/-- Every step keeps every element of the state in the range spec/10_state.md gives it, the contents of `DT` in `[0, PWM_MAX]`
and `{0, 0}` outside `[T_WARM, T_COLD]` (R36, R50), and reaches no fault, from every state that is in range, BOOT included. -/
def Obligations.StepKeepsTheInvariant : Prop :=
  ∀ s t : State, s.Inv → step s = .next t → t.Inv

/-- The state after reset is in range, for the installed configuration (the model's, log 3) and for every well-formed one. -/
def Obligations.ResetMeetsTheInvariant : Prop :=
  State.reset = State.resetWith Config.installed.raw ∧ State.reset.Inv ∧
    ∀ c : Cfg, c.wellFormed = true → (State.resetWith c).Inv

/-! ### Reset and boot (spec/70_reset_and_hazards.md, spec/41_duty_cycle_accumulator.md) -/

/-- R260: the values a run starts with. `prev_ab` is `INIT_AB` where it is given; otherwise it is free and nothing is said. -/
def Obligations.ResetValues : Prop :=
  ∀ c : Cfg,
    (State.resetWith c).phase = .boot ∧ (State.resetWith c).fault = none ∧ (State.resetWith c).refused = none ∧
    (∀ t, DutyTable.get (State.resetWith c).dt t = ⟨0, 0⟩) ∧ (State.resetWith c).pwm = ⟨⟨0, 0⟩, ⟨0, 0⟩⟩ ∧
    (State.resetWith c).disp = ⟨.blank, .blank⟩ ∧ (State.resetWith c).segOut = 0x00 ∧
    (State.resetWith c).digSel = 0b00 ∧ (State.resetWith c).scanPos = 0 ∧ (State.resetWith c).mode = .intensity ∧
    (State.resetWith c).intensity = c.initIntensity ∧ (State.resetWith c).colorTemp = c.initColor ∧
    (State.resetWith c).encRawIntensity = c.initIntensity * c.divIntensity ∧
    (State.resetWith c).encRawColor = c.initColor * c.divColor ∧
    (∀ ab, c.initAb = some ab → (State.resetWith c).prevAb = ab) ∧
    (State.resetWith c).debState = .idle ∧ (State.resetWith c).debCount = 0 ∧
    (State.resetWith c).auxColdPct = c.initAuxCold ∧ (State.resetWith c).auxWarmPct = c.initAuxWarm

/-- R265, R43: from reset under a well-formed configuration whose builder gives a table, five steps (BUILD, lighting,
display, diagnostics, READY) reach the READY state with the collected reset values. That each boot step is one step of the
machine is the model's reading of R60 (log 5). -/
def Obligations.BootReachesReady : Prop :=
  ∀ (c : Cfg) (dt : DutyTable), c.wellFormed = true → build c = .ok dt →
    (Host.Core.run Sys2Proof.core 5 (State.resetWith c) = .next { State.resetWith c with
      dt := dt
      pwm := Pwm.both (lightDuty c dt c.initColor c.initIntensity)
      disp := render c.initIntensity .suppressLeading
      phase := .ready
      bootNext := .enterReady })

/-- R9, R115, R120, R234: a configuration that is ill-formed, or that the builder refuses, is refused by boot's first step,
and no step is taken after it. That the refusal falls in that step, and what `step` answers afterwards, is the model's choice
(log 5). -/
def Obligations.RefusedConfigurationNeverRuns : Prop :=
  ∀ (c : Cfg) (r : Reason),
    (c.wellFormed = false ∧ r = .configIllFormed ∨ c.wellFormed = true ∧ build c = .error (.refusal r)) →
    step (State.resetWith c) = .next { State.resetWith c with refused := some r } ∧
      step { State.resetWith c with refused := some r } = .refused (.runRefused r)

/-- In a well-formed configuration the builder never faults: the spec's inference in R103 and R119. -/
def Obligations.BuilderNeverFaults : Prop :=
  ∀ (c : Cfg) (f : Fault), c.wellFormed = true → build c ≠ .error (.fault f)

/-- R114 to R118: with `M` the maximum of both channels over the intermediate raw values alone, every entry is rescaled by
`PWM_MAX / M` and truncated, and then the two endpoint entries, and no other, are clamped to `PWM_MAX`; with `M` not positive
the configuration is refused `CONFIG_NO_SCALE`. And R111, R113, R119: `BUILD` runs these phases on `RAW_MIX` of each
intermediate temperature's point of the chromaticity table, the reference definition where the configuration takes it, and on
the two single-LED values `PWM_MAX * (LW + LC) / L` at the endpoints. Under the default, exact, `BUILD_NUMERICS`. -/
def Obligations.PhasesRescaleThenClampTheEndpoints : Prop :=
  (∀ (pwmMax tWarm tCold : Int) (w k : RawDuty) (l : List (Int × RawDuty)) (m : Rat),
    (∃ e ∈ l, e.2.warm = m ∨ e.2.cold = m) → (∀ e ∈ l, e.2.warm ≤ m ∧ e.2.cold ≤ m) →
    (∀ e ∈ l, tWarm < e.1 ∧ e.1 < tCold) → (l.map Prod.fst).Nodup →
    (m ≤ 0 → buildPhases .exact pwmMax tWarm tCold w l k = .error (.refusal .configNoScale)) ∧
    (0 < m → ∃ dt, buildPhases .exact pwmMax tWarm tCold w l k = .ok dt ∧
      DutyTable.get dt tWarm =
        ⟨min (trunc (w.warm * pwmMax / m)) pwmMax, min (trunc (w.cold * pwmMax / m)) pwmMax⟩ ∧
      DutyTable.get dt tCold =
        ⟨min (trunc (k.warm * pwmMax / m)) pwmMax, min (trunc (k.cold * pwmMax / m)) pwmMax⟩ ∧
      ∀ e ∈ l, DutyTable.get dt e.1 = ⟨trunc (e.2.warm * pwmMax / m), trunc (e.2.cold * pwmMax / m)⟩)) ∧
  (∀ (c : Cfg) (b : BuildCfg) (dt : DutyTable), c.wellFormed = true → c.source = .build b → b.numerics = .exact →
    build c = .ok dt →
    ∃ (raw : Int → RawDuty) (m : Rat), 0 < m ∧
      (∀ p ∈ b.chroma, c.tWarm < p.t → p.t < c.tCold →
        rawMix b ⟨c.pwmMax, b.ledWarm, b.ledCold, b.lumWarm, b.lumCold, p.x, p.y⟩ = some (raw p.t) ∧
        (b.rawMix = .reference →
          referenceMix ⟨c.pwmMax, b.ledWarm, b.ledCold, b.lumWarm, b.lumCold, p.x, p.y⟩ = some (raw p.t))) ∧
      (∃ t, c.tWarm < t ∧ t < c.tCold ∧ ((raw t).warm = m ∨ (raw t).cold = m)) ∧
      (∀ t, c.tWarm < t → t < c.tCold → (∃ p ∈ b.chroma, p.t = t) ∧ (raw t).warm ≤ m ∧ (raw t).cold ≤ m ∧
        DutyTable.get dt t = ⟨trunc ((raw t).warm * c.pwmMax / m), trunc ((raw t).cold * c.pwmMax / m)⟩) ∧
      DutyTable.get dt c.tWarm =
        ⟨min (trunc (c.pwmMax * (b.lumWarm + b.lumCold) / b.lumWarm * c.pwmMax / m)) c.pwmMax, 0⟩ ∧
      DutyTable.get dt c.tCold =
        ⟨0, min (trunc (c.pwmMax * (b.lumWarm + b.lumCold) / b.lumCold * c.pwmMax / m)) c.pwmMax⟩)

/-- R122 (a), R121, R36, R50: whatever the mixing function and the arithmetic, the table the builder or the configuration
gives is in `[0, PWM_MAX]` on `[T_WARM, T_COLD]` and is `{0, 0}` everywhere else: for the exact arithmetic the spec's inference
from R113 to R117, for a substituted one the range R50 gives the table's contents (log 7). And it is canonical (the model's
form, log 11). -/
def Obligations.BuiltTableIsInRange : Prop :=
  ∀ (c : Cfg) (dt : DutyTable), c.wellFormed = true → build c = .ok dt →
    DutyTable.wf dt = true ∧
    ∀ t, (c.tWarm ≤ t → t ≤ c.tCold → (DutyTable.get dt t).InRange c.pwmMax) ∧
      (t < c.tWarm ∨ c.tCold < t → DutyTable.get dt t = ⟨0, 0⟩)

/-- R121: a table the builder produced has some intermediate entry with a channel equal to `PWM_MAX`, the spec's inference from
R114 and R116. -/
def Obligations.BuiltTableReachesPwmMax : Prop :=
  ∀ (c : Cfg) (b : BuildCfg) (dt : DutyTable), c.wellFormed = true → c.source = .build b → b.numerics = .exact →
    build c = .ok dt →
    ∃ t, c.tWarm < t ∧ t < c.tCold ∧
      ((DutyTable.get dt t).warm = c.pwmMax ∨ (DutyTable.get dt t).cold = c.pwmMax)

/-- R122 (c): under the reference mix and exact arithmetic the warm endpoint holds the maximum of the warm column and a zero
cold duty, and symmetrically at the cold endpoint: the spec's inference from R112 to R117. -/
def Obligations.EndpointsHoldTheirColumnsMaximum : Prop :=
  ∀ (c : Cfg) (b : BuildCfg) (dt : DutyTable), c.wellFormed = true → c.source = .build b →
    b.numerics = .exact → b.rawMix = .reference → build c = .ok dt →
    (DutyTable.get dt c.tWarm).cold = 0 ∧ (DutyTable.get dt c.tCold).warm = 0 ∧
    ∀ t, c.tWarm ≤ t → t ≤ c.tCold →
      (DutyTable.get dt t).warm ≤ (DutyTable.get dt c.tWarm).warm ∧
      (DutyTable.get dt t).cold ≤ (DutyTable.get dt c.tCold).cold

/-- R112: the reference mix hits the target chromaticity (its warm to cold luminances are in the ratio the geometry asks)
and its total illuminance is the sum of both maxima: what the spec says follows from its definition. It has a value, not
negative, for every target from the cold LED's `x` to, but not at, the warm LED's, and none on the warm LED's (R120: "not
finite" is a zero divisor here, log 14). -/
def Obligations.ReferenceMixMeetsItsTargets : Prop :=
  (∀ (m : MixInput) (r : RawDuty), referenceMix m = some r →
    r.warm * m.lumWarm + r.cold * m.lumCold = (m.lumWarm + m.lumCold) * m.pwmMax ∧
    r.warm * m.lumWarm * (m.ledCold.y * (m.x - m.ledWarm.x)) =
      r.cold * m.lumCold * (m.ledWarm.y * (m.ledCold.x - m.x))) ∧
  (∀ m : MixInput, 0 < m.pwmMax → 0 < m.lumWarm → 0 < m.lumCold → 0 < m.ledWarm.y → 0 < m.ledCold.y →
    m.ledWarm.x < m.x ∧ m.x ≤ m.ledCold.x ∨ m.ledCold.x ≤ m.x ∧ m.x < m.ledWarm.x →
    ∃ r, referenceMix m = some r ∧ 0 ≤ r.warm ∧ 0 < r.cold) ∧
  (∀ m : MixInput, m.x = m.ledWarm.x → referenceMix m = none)

/-- R120: a raw value of an intermediate temperature that is negative or not finite refuses the configuration
`CONFIG_RAW_NEGATIVE`. "Not finite" is a zero divisor here (log 14). And R119: under exact arithmetic, where every
intermediate raw value is finite and not negative and one of them is positive, the builder gives a table; so under the
reference mix it gives a table where every intermediate chromaticity lies between the two LEDs in `x`, the warm LED's own `x`
excepted, and refuses `CONFIG_RAW_NEGATIVE` everywhere else, as R120 says. -/
def Obligations.BadRawValueRefusesTheConfiguration : Prop :=
  (∀ (c : Cfg) (b : BuildCfg) (t : Int) (p : ChromaPoint), c.wellFormed = true → c.source = .build b →
    c.tWarm < t → t < c.tCold → p ∈ b.chroma → p.t = t →
    (rawMix b (mixInput c.pwmMax b p) = none ∨
      ∃ r, rawMix b (mixInput c.pwmMax b p) = some r ∧ (r.warm < 0 ∨ r.cold < 0)) →
    build c = .error (.refusal .configRawNegative)) ∧
  (∀ (c : Cfg) (b : BuildCfg), c.wellFormed = true → c.source = .build b → b.numerics = .exact →
    (∀ p ∈ b.chroma, c.tWarm < p.t → p.t < c.tCold →
      ∃ r, rawMix b (mixInput c.pwmMax b p) = some r ∧ 0 ≤ r.warm ∧ 0 ≤ r.cold) →
    (∃ p ∈ b.chroma, c.tWarm < p.t ∧ p.t < c.tCold ∧
      ∃ r, rawMix b (mixInput c.pwmMax b p) = some r ∧ (0 < r.warm ∨ 0 < r.cold)) →
    ∃ dt, build c = .ok dt) ∧
  (∀ (c : Cfg) (b : BuildCfg), c.wellFormed = true → c.source = .build b → b.numerics = .exact → b.rawMix = .reference →
    ((∀ p ∈ b.chroma, c.tWarm < p.t → p.t < c.tCold →
        b.ledWarm.x < p.x ∧ p.x ≤ b.ledCold.x ∨ b.ledCold.x ≤ p.x ∧ p.x < b.ledWarm.x) →
      ∃ dt, build c = .ok dt) ∧
    (∀ p ∈ b.chroma, c.tWarm < p.t → p.t < c.tCold →
      ¬(b.ledWarm.x < p.x ∧ p.x ≤ b.ledCold.x ∨ b.ledCold.x ≤ p.x ∧ p.x < b.ledWarm.x) →
      build c = .error (.refusal .configRawNegative)))

/-! ### Scripts (spec/30_encoding.md R90, R91) -/

/-- R91: `CLICK` is a press, a release and `DEB_COUNT + 1` released ticks; `CW n` and `CCW n` are `n` words, each a moving
reading in its direction under `ENC_POLARITY = +1`. -/
def Obligations.ScriptsExpandToEventWords : Prop :=
  (∀ (c : Cfg) (ab : BitVec 2),
    expand c ab [.click] = [0x2001, 0x2000] ++ List.replicate (c.debCount + 1).toNat 0x3000) ∧
  (∀ (c : Cfg) (ab : BitVec 2) (n : Nat),
    (expand c ab [.cw n]).map decode = (turnEdges nextCw n ab).map .event ∧
      (expand c ab [.ccw n]).map decode = (turnEdges nextCcw n ab).map .event) ∧
  (∀ ab : BitVec 2, dir .plus (transition ab (nextCw ab)) = 1 ∧ dir .plus (transition ab (nextCcw ab)) = -1)
end

