-- ==== Sys2Proof/Laws/Arith.lean ====
section
/-! SUPPORT. What truncation (spec/00_scope.md R11) and rounding to binary32 (spec/42_brightness_curve_scaler.md R134) do:
truncation of values that are not negative is the floor, and binary32 rounding keeps the order and every integer up to
`2^24`. -/

namespace Sys2Proof.Machine

/-- Truncation toward zero is the floor of a value that is not negative. -/
theorem trunc_eq_floor {r : Rat} (h : 0 ≤ r) : trunc r = ⌊r⌋ := by
  unfold trunc
  rw [Int.tdiv_eq_ediv_of_nonneg (Rat.num_nonneg.2 h), Rat.floor_def']

theorem trunc_intCast (n : Int) : trunc (n : Rat) = n := by simp [trunc]

theorem trunc_mono {r s : Rat} (h0 : 0 ≤ r) (h : r ≤ s) : trunc r ≤ trunc s := by
  rw [trunc_eq_floor h0, trunc_eq_floor (h0.trans h)]
  exact Int.floor_le_floor h

theorem trunc_not_neg {r : Rat} (h : 0 ≤ r) : 0 ≤ trunc r := by
  rw [trunc_eq_floor h]; exact Int.floor_nonneg.2 h

/-- A free natural number stands for a value of the range. -/
theorem withinRange_mem {p : Int} (h : 0 ≤ p) (k : Nat) : 0 ≤ withinRange p k ∧ withinRange p k ≤ p := by
  have hlt := Nat.le_of_lt_succ (Nat.mod_lt k (Nat.succ_pos p.toNat))
  have hle : withinRange p k ≤ (p.toNat : Int) := Int.ofNat_le.2 hlt
  exact ⟨Int.natCast_nonneg _, by omega⟩

/-- `pow2` is the power of two. -/
theorem pow2_eq (k : Int) : pow2 k = (2 : Rat) ^ k := by
  unfold pow2
  split
  · next h =>
    obtain ⟨n, rfl⟩ := Int.eq_ofNat_of_zero_le h
    simp
  · next h =>
    obtain ⟨n, hn⟩ := Int.eq_ofNat_of_zero_le (show 0 ≤ -k by omega)
    obtain rfl : k = -(n : Int) := by omega
    simp

theorem pow2_pos (k : Int) : 0 < pow2 k := by rw [pow2_eq]; positivity

/-- The binary exponent of a positive value brackets it. -/
theorem binaryExponent_spec {x : Rat} (h : 0 < x) : pow2 (binaryExponent x) ≤ x ∧ x < pow2 (binaryExponent x + 1) := by
  have hn : x.num.natAbs ≠ 0 := by simpa using h.ne'
  have hd : x.den ≠ 0 := x.den_nz
  have n1 := Nat.log2_self_le hn
  have n2 := Nat.lt_log2_self (n := x.num.natAbs)
  have d1 := Nat.log2_self_le hd
  have d2 := Nat.lt_log2_self (n := x.den)
  have hx : x = (x.num.natAbs : Rat) / (x.den : Rat) := by
    conv_lhs => rw [← Rat.num_div_den x]
    congr 1
    rw [← Int.cast_natCast, Int.natAbs_of_nonneg (Rat.num_nonneg.2 h.le)]
  generalize hN : x.num.natAbs = N at *
  generalize hD : x.den = D at *
  have D0 : (0 : Rat) < D := by exact_mod_cast Nat.pos_of_ne_zero hd
  have n1' : ((2 : Rat) ^ N.log2) ≤ N := by exact_mod_cast n1
  have n2' : (N : Rat) < (2 : Rat) ^ (N.log2 + 1) := by exact_mod_cast n2
  have d1' : ((2 : Rat) ^ D.log2) ≤ D := by exact_mod_cast d1
  have d2' : (D : Rat) < (2 : Rat) ^ (D.log2 + 1) := by exact_mod_cast d2
  have two : (2 : Rat) ≠ 0 := two_ne_zero
  have up : x < (2 : Rat) ^ ((N.log2 : Int) - D.log2 + 1) := by
    rw [hx, div_lt_iff₀ D0]
    calc (N : Rat) < 2 ^ (N.log2 + 1) := n2'
      _ = (2 : Rat) ^ ((N.log2 : Int) - D.log2 + 1) * 2 ^ D.log2 := by
        rw [← zpow_natCast, ← zpow_natCast, ← zpow_add₀ two]; congr 1; push_cast; ring
      _ ≤ _ := by gcongr
  have lo : (2 : Rat) ^ ((N.log2 : Int) - D.log2 - 1) ≤ x := by
    rw [hx, le_div_iff₀ D0]
    calc (2 : Rat) ^ ((N.log2 : Int) - D.log2 - 1) * D
        ≤ (2 : Rat) ^ ((N.log2 : Int) - D.log2 - 1) * 2 ^ (D.log2 + 1) := by gcongr
      _ = 2 ^ N.log2 := by
        rw [← zpow_natCast, ← zpow_natCast, ← zpow_add₀ two]; congr 1; push_cast; ring
      _ ≤ _ := n1'
  unfold binaryExponent
  simp only [hN, hD]
  split
  · next hc => exact ⟨hc, by rw [pow2_eq]; exact up⟩
  · next hc => exact ⟨by rw [pow2_eq]; exact lo, by rw [sub_add_cancel]; exact not_le.1 hc⟩

/-- An integer rounds to itself. -/
theorem roundTiesEven_intCast (n : Int) : roundTiesEven (n : Rat) = n := by
  simp [roundTiesEven]

/-- Rounding to the nearest integer keeps the order. -/
theorem roundTiesEven_mono {x y : Rat} (h : x ≤ y) : roundTiesEven x ≤ roundTiesEven y := by
  have fx : (x.floor : Rat) ≤ x := Int.floor_le x
  have fx' : x < x.floor + 1 := Int.lt_floor_add_one x
  have fy : (y.floor : Rat) ≤ y := Int.floor_le y
  have fy' : y < y.floor + 1 := Int.lt_floor_add_one y
  have hf : x.floor ≤ y.floor := Int.floor_le_floor h
  have b : ∀ z : Rat, z.floor ≤ roundTiesEven z ∧ roundTiesEven z ≤ z.floor + 1 := by
    intro z; unfold roundTiesEven; simp only; split_ifs <;> omega
  rcases hf.lt_or_eq with hlt | heq
  · have := (b x).2; have := (b y).1; omega
  · unfold roundTiesEven
    simp only
    rw [heq] at fx ⊢
    split_ifs <;> first | omega | (exfalso; linarith)

theorem ulp32_pos (x : Rat) : 0 < ulp32 x := pow2_pos _

/-- A value that is a whole number of its own spacings is a binary32 value. -/
theorem fl32Pos_of_integral {x : Rat} (n : Int) (h : x = n * ulp32 x) : fl32Pos x = x := by
  unfold fl32Pos
  have : x / ulp32 x = n := by rw [div_eq_iff (ulp32_pos x).ne']; exact h
  rw [this, roundTiesEven_intCast]; exact h.symm

/-- Rounding to binary32 keeps the order of positive values, across binades too. -/
theorem fl32Pos_mono {x y : Rat} (hx : 0 < x) (h : x ≤ y) : fl32Pos x ≤ fl32Pos y := by
  have hy := hx.trans_le h
  obtain ⟨x1, x2⟩ := binaryExponent_spec hx
  obtain ⟨y1, y2⟩ := binaryExponent_spec hy
  rw [pow2_eq] at x1 x2 y1 y2
  have he : binaryExponent x ≤ binaryExponent y := by
    have : (2 : Rat) ^ binaryExponent x < 2 ^ (binaryExponent y + 1) := (x1.trans h).trans_lt y2
    have := (zpow_lt_zpow_iff_right₀ (by norm_num : (1 : Rat) < 2)).1 this
    omega
  have ux := ulp32_pos x
  have uy := ulp32_pos y
  by_cases hm : max (binaryExponent x - 23) (-149) = max (binaryExponent y - 23) (-149)
  · have hu : ulp32 x = ulp32 y := by unfold ulp32; rw [hm]
    unfold fl32Pos
    rw [hu]
    have : roundTiesEven (x / ulp32 y) ≤ roundTiesEven (y / ulp32 y) := roundTiesEven_mono (by gcongr)
    gcongr
  · set ex := binaryExponent x
    set ey := binaryExponent y
    have key : max (ex - 23) (-149) < ey - 23 := by omega
    have two : (2 : Rat) ≠ 0 := two_ne_zero
    have one : (1 : Rat) ≤ 2 := by norm_num
    have hxy : x ≤ 2 ^ ey := x2.le.trans (zpow_le_zpow_right₀ one (by omega))
    obtain ⟨n, hn⟩ := Int.eq_ofNat_of_zero_le (show 0 ≤ ey - max (ex - 23) (-149) by omega)
    have e1 : (2 : Rat) ^ ey = ((2 ^ n : Nat) : Int) * ulp32 x := by
      unfold ulp32
      rw [pow2_eq]; push_cast
      rw [← zpow_natCast, ← zpow_add₀ two]; congr 1; omega
    have e2 : (2 : Rat) ^ ey = ((2 ^ 23 : Nat) : Int) * ulp32 y := by
      unfold ulp32
      rw [pow2_eq]; push_cast
      rw [show (8388608 : Rat) = 2 ^ (23 : Int) by norm_num, ← zpow_add₀ two]; congr 1; omega
    calc fl32Pos x ≤ 2 ^ ey := by
          rw [e1]; unfold fl32Pos
          have : roundTiesEven (x / ulp32 x) ≤ ((2 ^ n : Nat) : Int) := by
            rw [← roundTiesEven_intCast ((2 ^ n : Nat) : Int)]
            refine roundTiesEven_mono ?_
            rw [div_le_iff₀ ux, ← e1]; exact hxy
          have : (roundTiesEven (x / ulp32 x) : Rat) ≤ (((2 ^ n : Nat) : Int) : Rat) := by exact_mod_cast this
          gcongr
      _ ≤ fl32Pos y := by
          rw [e2]; unfold fl32Pos
          have : ((2 ^ 23 : Nat) : Int) ≤ roundTiesEven (y / ulp32 y) := by
            rw [← roundTiesEven_intCast ((2 ^ 23 : Nat) : Int)]
            refine roundTiesEven_mono ?_
            rw [le_div_iff₀ uy, ← e2]; exact y1
          have : (((2 ^ 23 : Nat) : Int) : Rat) ≤ (roundTiesEven (y / ulp32 y) : Rat) := by exact_mod_cast this
          gcongr

/-- A value that is not negative rounds to one. -/
theorem fl32_nonneg {x : Rat} (h : 0 ≤ x) : 0 ≤ fl32 x := by
  unfold fl32
  split
  · exact le_rfl
  · rw [if_neg (not_lt.2 h)]
    unfold fl32Pos
    have : (0 : Int) ≤ roundTiesEven (x / ulp32 x) := by
      have := roundTiesEven_mono (x := ((0 : Int) : Rat)) (y := x / ulp32 x) (by have := ulp32_pos x; push_cast; positivity)
      rwa [roundTiesEven_intCast] at this
    have := ulp32_pos x
    have : (0 : Rat) ≤ (roundTiesEven (x / ulp32 x) : Rat) := by exact_mod_cast ‹(0:Int) ≤ _›
    positivity

/-- Rounding to binary32 keeps the order of values that are not negative. -/
theorem fl32_mono {x y : Rat} (h0 : 0 ≤ x) (h : x ≤ y) : fl32 x ≤ fl32 y := by
  rcases h0.eq_or_lt with rfl | hx
  · simpa [fl32] using fl32_nonneg h
  · unfold fl32
    rw [if_neg hx.ne', if_neg (not_lt.2 h0), if_neg (hx.trans_le h).ne', if_neg (not_lt.2 (h0.trans h))]
    exact fl32Pos_mono hx h

/-- "`fl32(d) = d` exactly because `d <= PWM_MAX <= 2^24`" (R134). -/
theorem fl32_intCast {d : Int} (h0 : 0 ≤ d) (h : d ≤ 2 ^ 24) : fl32 (d : Rat) = d := by
  rcases h0.eq_or_lt with rfl | hd
  · simp [fl32]
  · have hd' : (0 : Rat) < d := by exact_mod_cast hd
    unfold fl32
    rw [if_neg hd'.ne', if_neg (not_lt.2 hd'.le)]
    obtain ⟨x1, x2⟩ := binaryExponent_spec hd'
    rw [pow2_eq] at x1 x2
    have he : binaryExponent (d : Rat) ≤ 24 := by
      have : (2 : Rat) ^ binaryExponent (d : Rat) ≤ 2 ^ (24 : Int) := x1.trans (by norm_num; exact_mod_cast h)
      exact (zpow_le_zpow_iff_right₀ (by norm_num : (1 : Rat) < 2)).1 this
    have two : (2 : Rat) ≠ 0 := two_ne_zero
    by_cases h24 : binaryExponent (d : Rat) = 24
    · have : d = 2 ^ 24 := by
        rw [h24] at x1
        have : ((2 ^ 24 : Int) : Rat) ≤ d := by norm_num at x1 ⊢; exact x1
        have : (2 ^ 24 : Int) ≤ d := by exact_mod_cast this
        omega
      refine fl32Pos_of_integral (2 ^ 23) ?_
      unfold ulp32
      rw [h24, this, pow2_eq]; norm_num
    · obtain ⟨n, hn⟩ := Int.eq_ofNat_of_zero_le (show 0 ≤ -(max (binaryExponent (d : Rat) - 23) (-149)) by omega)
      refine fl32Pos_of_integral (d * 2 ^ n) ?_
      unfold ulp32
      rw [pow2_eq, show max (binaryExponent (d : Rat) - 23) (-149) = -(n : Int) by omega]
      simp

end Sys2Proof.Machine
end

