-- ==== Sys2Proof/Laws/Table.lean ====
section
/-! SUPPORT. The duty-cycle table as a memory: a read after a write gives what was written, a write leaves every other
temperature alone, and every write keeps the canonical form. -/

namespace Sys2Proof

theorem DutyTable.risesFrom_trans {a b : Int} (h : a < b) :
    ∀ {dt : DutyTable}, DutyTable.risesFrom b dt = true → DutyTable.risesFrom a dt = true
  | [], _ => rfl
  | (t, d) :: r, hr => by
    simp only [DutyTable.risesFrom, Bool.and_eq_true, decide_eq_true_eq] at hr ⊢
    exact ⟨h.trans hr.1, hr.2⟩

/-- A table that rises from above `t` holds nothing at `t`. -/
theorem DutyTable.get_of_risesFrom :
    ∀ {dt : DutyTable} {t b : Int}, DutyTable.risesFrom b dt = true → t ≤ b → DutyTable.get dt t = Duty.zero
  | [], _, _, _, _ => rfl
  | (k, d) :: r, t, b, hr, hb => by
    simp only [DutyTable.risesFrom, Bool.and_eq_true, decide_eq_true_eq] at hr
    have hk : t ≠ k := by omega
    simp only [DutyTable.get, if_neg hk]
    exact DutyTable.get_of_risesFrom hr.2 (by omega)

theorem DutyTable.risesFrom_set :
    ∀ {dt : DutyTable} {b t : Int} {d : Duty}, DutyTable.risesFrom b dt = true → b < t →
      DutyTable.risesFrom b (DutyTable.set dt t d) = true
  | [], b, t, d, _, hb => by
    by_cases hd : d = Duty.zero <;> simp [DutyTable.set, DutyTable.risesFrom, hd, hb]
  | (k, e) :: r, b, t, d, hr, hb => by
    simp only [DutyTable.risesFrom, Bool.and_eq_true, decide_eq_true_eq] at hr
    have ih := DutyTable.risesFrom_set (t := t) (d := d) hr.2
    by_cases h1 : t < k
    · by_cases hd : d = Duty.zero <;> simp [DutyTable.set, DutyTable.risesFrom, h1, hd, hb, hr.1, hr.2]
    · by_cases h2 : t = k
      · subst h2
        by_cases hd : d = Duty.zero
        · simp [DutyTable.set, hd, DutyTable.risesFrom_trans hr.1 hr.2]
        · simp [DutyTable.set, DutyTable.risesFrom, hd, hr.1, hr.2]
      · simp [DutyTable.set, DutyTable.risesFrom, h1, h2, hr.1, ih (by omega)]

/-- The canonical form as its two halves. -/
theorem DutyTable.wf_cons {t : Int} {d : Duty} {r : DutyTable} :
    DutyTable.wf ((t, d) :: r) = true ↔ DutyTable.risesFrom t r = true ∧ d ≠ Duty.zero ∧ DutyTable.wf r = true := by
  cases r with
  | nil => simp [DutyTable.wf, DutyTable.risesFrom]
  | cons p r =>
    obtain ⟨k, e⟩ := p
    simp only [DutyTable.wf, DutyTable.risesFrom, List.all_cons, Bool.and_eq_true, decide_eq_true_eq]
    tauto

/-- A write keeps the canonical form. -/
theorem DutyTable.set_wf :
    ∀ {dt : DutyTable} (t : Int) (d : Duty), DutyTable.wf dt = true → DutyTable.wf (DutyTable.set dt t d) = true
  | [], t, d, _ => by
    by_cases hd : d = Duty.zero <;> simp [DutyTable.set, DutyTable.wf, DutyTable.risesFrom, hd]
  | (k, e) :: r, t, d, h => by
    obtain ⟨h1, h2, h3⟩ := DutyTable.wf_cons.1 h
    by_cases c1 : t < k
    · by_cases hd : d = Duty.zero
      · simpa [DutyTable.set, c1, hd] using h
      · simp only [DutyTable.set, if_pos c1, if_neg hd]
        exact DutyTable.wf_cons.2 ⟨by simp [DutyTable.risesFrom, c1, h1], hd, h⟩
    · by_cases c2 : t = k
      · subst c2
        by_cases hd : d = Duty.zero
        · simpa [DutyTable.set, hd] using h3
        · simp only [DutyTable.set, lt_irrefl, if_false, if_true, if_neg hd]
          exact DutyTable.wf_cons.2 ⟨h1, hd, h3⟩
      · simp only [DutyTable.set, if_neg c1, if_neg c2]
        exact DutyTable.wf_cons.2 ⟨DutyTable.risesFrom_set h1 (by omega), h2, DutyTable.set_wf t d h3⟩

/-- A read after a write: what was written at that temperature, what was there before at every other. -/
theorem DutyTable.get_set :
    ∀ {dt : DutyTable} (t : Int) (d : Duty) (u : Int), DutyTable.wf dt = true →
      DutyTable.get (DutyTable.set dt t d) u = if u = t then d else DutyTable.get dt u
  | [], t, d, u, _ => by
    by_cases hd : d = Duty.zero <;> by_cases hu : u = t <;> simp [DutyTable.set, DutyTable.get, hd, hu]
  | (k, e) :: r, t, d, u, h => by
    obtain ⟨h1, h2, h3⟩ := DutyTable.wf_cons.1 h
    have hz : ∀ x, x ≤ k → DutyTable.get r x = Duty.zero := fun x hx => DutyTable.get_of_risesFrom h1 hx
    by_cases c1 : t < k
    · by_cases hd : d = Duty.zero
      · by_cases hu : u = t
        · subst hu
          simp [DutyTable.set, c1, hd, DutyTable.get, show u ≠ k by omega, hz u (by omega)]
        · simp [DutyTable.set, c1, hd, hu]
      · by_cases hu : u = t <;> simp [DutyTable.set, c1, hd, hu, DutyTable.get]
    · by_cases c2 : t = k
      · subst c2
        by_cases hd : d = Duty.zero <;> by_cases hu : u = t <;>
          simp [DutyTable.set, hd, hu, DutyTable.get, hz]
      · have ih := DutyTable.get_set t d u h3
        by_cases hu : u = k
        · subst hu
          simp [DutyTable.set, c1, c2, DutyTable.get, show ¬ u = t from fun e => c2 e.symm]
        · simp [DutyTable.set, c1, c2, DutyTable.get, hu, ih]

/-- What is read at `t` is `{0, 0}` or a stored entry. -/
theorem DutyTable.get_zero_or_mem :
    ∀ (dt : DutyTable) (t : Int), DutyTable.get dt t = Duty.zero ∨ (t, DutyTable.get dt t) ∈ dt
  | [], _ => .inl rfl
  | (k, d) :: r, t => by
    by_cases h : t = k
    · subst h
      exact .inr (by simp [DutyTable.get])
    · rcases DutyTable.get_zero_or_mem r t with e | e
      · exact .inl (by simpa [DutyTable.get, h] using e)
      · exact .inr (by simp [DutyTable.get, h, e])

/-- The table of a list of entries is canonical. -/
theorem DutyTable.ofEntries_wf (es : List (Int × Duty)) : DutyTable.wf (DutyTable.ofEntries es) = true := by
  suffices h : ∀ (es : List (Int × Duty)) (dt : DutyTable), DutyTable.wf dt = true →
      DutyTable.wf (es.foldl (fun dt e => DutyTable.set dt e.1 e.2) dt) = true from h es [] rfl
  intro es
  induction es with
  | nil => intro dt h; exact h
  | cons e es ih => intro dt h; exact ih _ (DutyTable.set_wf _ _ h)

/-- What the table of a list of entries holds at `t`: the last entry for `t`, `{0, 0}` if there is none. -/
theorem DutyTable.get_ofEntries (es : List (Int × Duty)) (t : Int) :
    DutyTable.get (DutyTable.ofEntries es) t =
      es.foldl (fun d e => if t = e.1 then e.2 else d) Duty.zero := by
  suffices h : ∀ (es : List (Int × Duty)) (dt : DutyTable), DutyTable.wf dt = true →
      DutyTable.get (es.foldl (fun dt e => DutyTable.set dt e.1 e.2) dt) t =
        es.foldl (fun d e => if t = e.1 then e.2 else d) (DutyTable.get dt t) from h es [] rfl
  intro es
  induction es with
  | nil => intro dt _; rfl
  | cons e es ih =>
    intro dt h
    simp only [List.foldl_cons]
    rw [ih _ (DutyTable.set_wf _ _ h), DutyTable.get_set _ _ _ h]

end Sys2Proof
end

