-- ==== Sys2Proof/Laws/Builder.lean ====
section
/-! SUPPORT. What the builder's operations do, once each (spec/40_chromaticity_lookup_table.md,
spec/41_duty_cycle_accumulator.md): the temperatures, the lookup, the raw values and their check, the maximum, and reading a
table made of a list of entries. -/

namespace Sys2Proof

/-- The temperatures `lo … hi`. -/
theorem mem_temperatures {lo hi t : Int} : t ∈ temperatures lo hi ↔ lo ≤ t ∧ t ≤ hi := by
  simp only [temperatures, List.mem_map, List.mem_range]
  constructor
  · rintro ⟨k, h, rfl⟩; omega
  · intro h; exact ⟨(t - lo).toNat, by omega, by omega⟩

theorem temperatures_nodup (lo hi : Int) : (temperatures lo hi).Nodup :=
  List.Nodup.map (fun _ _ h => by simpa using h) List.nodup_range

/-- Entries for other temperatures do not touch what is read at `t`. -/
theorem DutyTable.foldl_of_not_mem {es : List (Int × Duty)} {t : Int} {d : Duty} (h : ∀ e ∈ es, e.1 ≠ t) :
    es.foldl (fun d e => if t = e.1 then e.2 else d) d = d := by
  induction es generalizing d with
  | nil => rfl
  | cons a es ih =>
    simp only [List.foldl_cons]
    rw [if_neg fun e => h a (by simp) e.symm]
    exact ih fun e he => h e (by simp [he])

/-- A table made of entries of distinct temperatures holds each entry. -/
theorem DutyTable.get_ofEntries_of_mem {es : List (Int × Duty)} {t : Int} {v : Duty} (hn : (es.map Prod.fst).Nodup)
    (h : (t, v) ∈ es) : DutyTable.get (DutyTable.ofEntries es) t = v := by
  rw [DutyTable.get_ofEntries]
  generalize Duty.zero = d
  induction es generalizing d with
  | nil => cases h
  | cons a es ih =>
    simp only [List.foldl_cons]
    simp only [List.map_cons, List.nodup_cons] at hn
    rcases List.mem_cons.1 h with rfl | h
    · rw [if_pos rfl]
      exact DutyTable.foldl_of_not_mem fun e he hh => hn.1 (List.mem_map.2 ⟨e, he, hh⟩)
    · exact ih hn.2 h _

/-- A table made of entries holds `{0, 0}` at every other temperature. -/
theorem DutyTable.get_ofEntries_of_not_mem {es : List (Int × Duty)} {t : Int} (h : ∀ e ∈ es, e.1 ≠ t) :
    DutyTable.get (DutyTable.ofEntries es) t = Duty.zero := by
  rw [DutyTable.get_ofEntries]; exact DutyTable.foldl_of_not_mem h

end Sys2Proof

namespace Sys2Proof.Machine

/-- In a contiguous table the lookup inside its range finds the point of that temperature (R103). -/
theorem chromaLookup_inRange {b : BuildCfg} (hc : b.contiguousOk = true) {t : Int} (h1 : b.chromaLo ≤ t)
    (h2 : t ≤ b.chromaHi) : ∃ p, chromaLookup b t = .ok p ∧ p ∈ b.chroma ∧ p.t = t := by
  have hm : t ∈ b.chroma.map (·.t) := by
    simp only [BuildCfg.contiguousOk, decide_eq_true_eq] at hc
    rw [hc]; exact mem_temperatures.2 ⟨h1, h2⟩
  have find : ∀ l : List ChromaPoint, t ∈ l.map (·.t) → ∃ p, findPoint t l = some p ∧ p ∈ l ∧ p.t = t := by
    intro l
    induction l with
    | nil => simp
    | cons a l ih =>
      intro h
      by_cases ha : a.t = t
      · exact ⟨a, by simp [findPoint, ha], by simp, ha⟩
      · simp only [List.map_cons, List.mem_cons] at h
        obtain ⟨p, q1, q2, q3⟩ := ih (h.resolve_left fun e => ha e.symm)
        exact ⟨p, by simp [findPoint, ha, q1], by simp [q2], q3⟩
  obtain ⟨p, q1, q2, q3⟩ := find _ hm
  exact ⟨p, by simp [chromaLookup, h1, h2, q1], q2, q3⟩

/-- Phase 1 inside a contiguous table: one raw value per temperature, each the mix at that temperature's point (R111). -/
theorem rawIntermediates_inRange {b : BuildCfg} (hc : b.contiguousOk = true) (pwmMax : Int) :
    ∀ ts : List Int, (∀ t ∈ ts, b.chromaLo ≤ t ∧ t ≤ b.chromaHi) →
      ∃ r, rawIntermediates pwmMax b ts = .ok r ∧ r.map Prod.fst = ts ∧
        ∀ e ∈ r, ∃ p ∈ b.chroma, p.t = e.1 ∧ e.2 = rawMix b (mixInput pwmMax b p) := by
  intro ts
  induction ts with
  | nil => intro _; exact ⟨[], rfl, rfl, by simp⟩
  | cons t ts ih =>
    intro h
    obtain ⟨p, q1, q2, q3⟩ := chromaLookup_inRange hc (h t (by simp)).1 (h t (by simp)).2
    obtain ⟨r, r1, r2, r3⟩ := ih fun u hu => h u (by simp [hu])
    refine ⟨(t, rawMix b (mixInput pwmMax b p)) :: r, by simp [rawIntermediates, q1, r1], by simp [r2], ?_⟩
    intro e he
    rcases List.mem_cons.1 he with rfl | he
    · exact ⟨p, q2, q3, rfl⟩
    · exact r3 e he

/-- What passes the check of R120: the same temperatures, every pair finite and not negative. -/
theorem checkedRaw_some :
    ∀ {r : List (Int × Option RawDuty)} {l : List (Int × RawDuty)}, checkedRaw r = some l →
      l.map Prod.fst = r.map Prod.fst ∧ ∀ e ∈ l, 0 ≤ e.2.warm ∧ 0 ≤ e.2.cold ∧ (e.1, some e.2) ∈ r
  | [], l, h => by cases h; simp
  | (t, none) :: r, l, h => by cases h
  | (t, some d) :: r, l, h => by
    simp only [checkedRaw] at h
    split at h
    · cases h
    · next hd =>
      rcases hc : checkedRaw r with _ | l'
      · rw [hc] at h; cases h
      · rw [hc] at h
        cases h
        obtain ⟨h1, h2⟩ := checkedRaw_some hc
        refine ⟨by simp [h1], fun e he => ?_⟩
        rcases List.mem_cons.1 he with rfl | he
        · exact ⟨not_lt.1 fun h => hd (.inl h), not_lt.1 fun h => hd (.inr h), by simp⟩
        · have := h2 e he
          exact ⟨this.1, this.2.1, by simp [this.2.2]⟩

/-- `M` bounds every raw value, and is one of them unless it is 0 (R114). -/
theorem scaleMax_spec (l : List (Int × RawDuty)) :
    0 ≤ scaleMax l ∧ (∀ e ∈ l, e.2.warm ≤ scaleMax l ∧ e.2.cold ≤ scaleMax l) ∧
      (scaleMax l = 0 ∨ ∃ e ∈ l, e.2.warm = scaleMax l ∨ e.2.cold = scaleMax l) := by
  induction l with
  | nil => simp [scaleMax]
  | cons a l ih =>
    obtain ⟨t, d⟩ := a
    obtain ⟨h0, h1, h2⟩ := ih
    simp only [scaleMax]
    refine ⟨le_max_of_le_right h0, fun e he => ?_, ?_⟩
    · rcases List.mem_cons.1 he with rfl | he
      · exact ⟨le_max_of_le_left (le_max_left _ _), le_max_of_le_left (le_max_right _ _)⟩
      · exact ⟨le_max_of_le_right (h1 e he).1, le_max_of_le_right (h1 e he).2⟩
    · rcases max_choice (max d.warm d.cold) (scaleMax l) with h | h
      · rw [h]
        refine .inr ⟨(t, d), by simp, ?_⟩
        rcases max_choice d.warm d.cold with h' | h' <;> rw [h'] <;> simp
      · rw [h]
        rcases h2 with h2 | ⟨e, he, h2⟩
        · exact .inl h2
        · exact .inr ⟨e, by simp [he], h2⟩

end Sys2Proof.Machine
end

