-- ==== Sys2Proof/Laws/State.lean ====
section
/-! SUPPORT. One lemma per field per named update of the state, so that no proof unfolds a record update. -/

namespace Sys2Proof.Machine

variable (s : State)

@[simp] theorem State.raise_cfg (f : Fault) : (s.raise f).cfg = s.cfg := rfl

@[simp] theorem State.raise_colorTemp (f : Fault) : (s.raise f).colorTemp = s.colorTemp := rfl

@[simp] theorem State.raise_intensity (f : Fault) : (s.raise f).intensity = s.intensity := rfl

@[simp] theorem State.raise_mode (f : Fault) : (s.raise f).mode = s.mode := rfl

@[simp] theorem State.raise_encRawIntensity (f : Fault) : (s.raise f).encRawIntensity = s.encRawIntensity := rfl

@[simp] theorem State.raise_encRawColor (f : Fault) : (s.raise f).encRawColor = s.encRawColor := rfl

@[simp] theorem State.raise_prevAb (f : Fault) : (s.raise f).prevAb = s.prevAb := rfl

@[simp] theorem State.raise_debState (f : Fault) : (s.raise f).debState = s.debState := rfl

@[simp] theorem State.raise_debCount (f : Fault) : (s.raise f).debCount = s.debCount := rfl

@[simp] theorem State.raise_disp (f : Fault) : (s.raise f).disp = s.disp := rfl

@[simp] theorem State.raise_scanPos (f : Fault) : (s.raise f).scanPos = s.scanPos := rfl

@[simp] theorem State.raise_segOut (f : Fault) : (s.raise f).segOut = s.segOut := rfl

@[simp] theorem State.raise_digSel (f : Fault) : (s.raise f).digSel = s.digSel := rfl

@[simp] theorem State.raise_pwm (f : Fault) : (s.raise f).pwm = s.pwm := rfl

@[simp] theorem State.raise_auxColdPct (f : Fault) : (s.raise f).auxColdPct = s.auxColdPct := rfl

@[simp] theorem State.raise_auxWarmPct (f : Fault) : (s.raise f).auxWarmPct = s.auxWarmPct := rfl

@[simp] theorem State.raise_dt (f : Fault) : (s.raise f).dt = s.dt := rfl

@[simp] theorem State.raise_phase (f : Fault) : (s.raise f).phase = s.phase := rfl

@[simp] theorem State.raise_fault (f : Fault) : (s.raise f).fault = some f := rfl

@[simp] theorem State.raise_refused (f : Fault) : (s.raise f).refused = s.refused := rfl

@[simp] theorem State.raise_inputs (f : Fault) : (s.raise f).inputs = s.inputs := rfl

@[simp] theorem State.raise_bootNext (f : Fault) : (s.raise f).bootNext = s.bootNext := rfl

@[simp] theorem State.raise_draws (f : Fault) : (s.raise f).draws = s.draws := rfl

@[simp] theorem State.refuse_cfg (r : Reason) : (s.refuse r).cfg = s.cfg := rfl

@[simp] theorem State.refuse_colorTemp (r : Reason) : (s.refuse r).colorTemp = s.colorTemp := rfl

@[simp] theorem State.refuse_intensity (r : Reason) : (s.refuse r).intensity = s.intensity := rfl

@[simp] theorem State.refuse_mode (r : Reason) : (s.refuse r).mode = s.mode := rfl

@[simp] theorem State.refuse_encRawIntensity (r : Reason) : (s.refuse r).encRawIntensity = s.encRawIntensity := rfl

@[simp] theorem State.refuse_encRawColor (r : Reason) : (s.refuse r).encRawColor = s.encRawColor := rfl

@[simp] theorem State.refuse_prevAb (r : Reason) : (s.refuse r).prevAb = s.prevAb := rfl

@[simp] theorem State.refuse_debState (r : Reason) : (s.refuse r).debState = s.debState := rfl

@[simp] theorem State.refuse_debCount (r : Reason) : (s.refuse r).debCount = s.debCount := rfl

@[simp] theorem State.refuse_disp (r : Reason) : (s.refuse r).disp = s.disp := rfl

@[simp] theorem State.refuse_scanPos (r : Reason) : (s.refuse r).scanPos = s.scanPos := rfl

@[simp] theorem State.refuse_segOut (r : Reason) : (s.refuse r).segOut = s.segOut := rfl

@[simp] theorem State.refuse_digSel (r : Reason) : (s.refuse r).digSel = s.digSel := rfl

@[simp] theorem State.refuse_pwm (r : Reason) : (s.refuse r).pwm = s.pwm := rfl

@[simp] theorem State.refuse_auxColdPct (r : Reason) : (s.refuse r).auxColdPct = s.auxColdPct := rfl

@[simp] theorem State.refuse_auxWarmPct (r : Reason) : (s.refuse r).auxWarmPct = s.auxWarmPct := rfl

@[simp] theorem State.refuse_dt (r : Reason) : (s.refuse r).dt = s.dt := rfl

@[simp] theorem State.refuse_phase (r : Reason) : (s.refuse r).phase = s.phase := rfl

@[simp] theorem State.refuse_fault (r : Reason) : (s.refuse r).fault = s.fault := rfl

@[simp] theorem State.refuse_refused (r : Reason) : (s.refuse r).refused = some r := rfl

@[simp] theorem State.refuse_inputs (r : Reason) : (s.refuse r).inputs = s.inputs := rfl

@[simp] theorem State.refuse_bootNext (r : Reason) : (s.refuse r).bootNext = s.bootNext := rfl

@[simp] theorem State.refuse_draws (r : Reason) : (s.refuse r).draws = s.draws := rfl

@[simp] theorem State.pwmWrite_cfg (m : Module) (ch : Channel) (v : Int) : (s.pwmWrite m ch v).cfg = s.cfg := rfl

@[simp] theorem State.pwmWrite_colorTemp (m : Module) (ch : Channel) (v : Int) : (s.pwmWrite m ch v).colorTemp = s.colorTemp := rfl

@[simp] theorem State.pwmWrite_intensity (m : Module) (ch : Channel) (v : Int) : (s.pwmWrite m ch v).intensity = s.intensity := rfl

@[simp] theorem State.pwmWrite_mode (m : Module) (ch : Channel) (v : Int) : (s.pwmWrite m ch v).mode = s.mode := rfl

@[simp] theorem State.pwmWrite_encRawIntensity (m : Module) (ch : Channel) (v : Int) : (s.pwmWrite m ch v).encRawIntensity = s.encRawIntensity := rfl

@[simp] theorem State.pwmWrite_encRawColor (m : Module) (ch : Channel) (v : Int) : (s.pwmWrite m ch v).encRawColor = s.encRawColor := rfl

@[simp] theorem State.pwmWrite_prevAb (m : Module) (ch : Channel) (v : Int) : (s.pwmWrite m ch v).prevAb = s.prevAb := rfl

@[simp] theorem State.pwmWrite_debState (m : Module) (ch : Channel) (v : Int) : (s.pwmWrite m ch v).debState = s.debState := rfl

@[simp] theorem State.pwmWrite_debCount (m : Module) (ch : Channel) (v : Int) : (s.pwmWrite m ch v).debCount = s.debCount := rfl

@[simp] theorem State.pwmWrite_disp (m : Module) (ch : Channel) (v : Int) : (s.pwmWrite m ch v).disp = s.disp := rfl

@[simp] theorem State.pwmWrite_scanPos (m : Module) (ch : Channel) (v : Int) : (s.pwmWrite m ch v).scanPos = s.scanPos := rfl

@[simp] theorem State.pwmWrite_segOut (m : Module) (ch : Channel) (v : Int) : (s.pwmWrite m ch v).segOut = s.segOut := rfl

@[simp] theorem State.pwmWrite_digSel (m : Module) (ch : Channel) (v : Int) : (s.pwmWrite m ch v).digSel = s.digSel := rfl

@[simp] theorem State.pwmWrite_auxColdPct (m : Module) (ch : Channel) (v : Int) : (s.pwmWrite m ch v).auxColdPct = s.auxColdPct := rfl

@[simp] theorem State.pwmWrite_auxWarmPct (m : Module) (ch : Channel) (v : Int) : (s.pwmWrite m ch v).auxWarmPct = s.auxWarmPct := rfl

@[simp] theorem State.pwmWrite_dt (m : Module) (ch : Channel) (v : Int) : (s.pwmWrite m ch v).dt = s.dt := rfl

@[simp] theorem State.pwmWrite_phase (m : Module) (ch : Channel) (v : Int) : (s.pwmWrite m ch v).phase = s.phase := rfl

@[simp] theorem State.pwmWrite_fault (m : Module) (ch : Channel) (v : Int) : (s.pwmWrite m ch v).fault = s.fault := rfl

@[simp] theorem State.pwmWrite_refused (m : Module) (ch : Channel) (v : Int) : (s.pwmWrite m ch v).refused = s.refused := rfl

@[simp] theorem State.pwmWrite_inputs (m : Module) (ch : Channel) (v : Int) : (s.pwmWrite m ch v).inputs = s.inputs := rfl

@[simp] theorem State.pwmWrite_bootNext (m : Module) (ch : Channel) (v : Int) : (s.pwmWrite m ch v).bootNext = s.bootNext := rfl

@[simp] theorem State.pwmWrite_draws (m : Module) (ch : Channel) (v : Int) : (s.pwmWrite m ch v).draws = s.draws := rfl

@[simp] theorem State.pwmPair_cfg (m : Module) (d : Duty) : (s.pwmPair m d).cfg = s.cfg := rfl

@[simp] theorem State.pwmPair_colorTemp (m : Module) (d : Duty) : (s.pwmPair m d).colorTemp = s.colorTemp := rfl

@[simp] theorem State.pwmPair_intensity (m : Module) (d : Duty) : (s.pwmPair m d).intensity = s.intensity := rfl

@[simp] theorem State.pwmPair_mode (m : Module) (d : Duty) : (s.pwmPair m d).mode = s.mode := rfl

@[simp] theorem State.pwmPair_encRawIntensity (m : Module) (d : Duty) : (s.pwmPair m d).encRawIntensity = s.encRawIntensity := rfl

@[simp] theorem State.pwmPair_encRawColor (m : Module) (d : Duty) : (s.pwmPair m d).encRawColor = s.encRawColor := rfl

@[simp] theorem State.pwmPair_prevAb (m : Module) (d : Duty) : (s.pwmPair m d).prevAb = s.prevAb := rfl

@[simp] theorem State.pwmPair_debState (m : Module) (d : Duty) : (s.pwmPair m d).debState = s.debState := rfl

@[simp] theorem State.pwmPair_debCount (m : Module) (d : Duty) : (s.pwmPair m d).debCount = s.debCount := rfl

@[simp] theorem State.pwmPair_disp (m : Module) (d : Duty) : (s.pwmPair m d).disp = s.disp := rfl

@[simp] theorem State.pwmPair_scanPos (m : Module) (d : Duty) : (s.pwmPair m d).scanPos = s.scanPos := rfl

@[simp] theorem State.pwmPair_segOut (m : Module) (d : Duty) : (s.pwmPair m d).segOut = s.segOut := rfl

@[simp] theorem State.pwmPair_digSel (m : Module) (d : Duty) : (s.pwmPair m d).digSel = s.digSel := rfl

@[simp] theorem State.pwmPair_auxColdPct (m : Module) (d : Duty) : (s.pwmPair m d).auxColdPct = s.auxColdPct := rfl

@[simp] theorem State.pwmPair_auxWarmPct (m : Module) (d : Duty) : (s.pwmPair m d).auxWarmPct = s.auxWarmPct := rfl

@[simp] theorem State.pwmPair_dt (m : Module) (d : Duty) : (s.pwmPair m d).dt = s.dt := rfl

@[simp] theorem State.pwmPair_phase (m : Module) (d : Duty) : (s.pwmPair m d).phase = s.phase := rfl

@[simp] theorem State.pwmPair_fault (m : Module) (d : Duty) : (s.pwmPair m d).fault = s.fault := rfl

@[simp] theorem State.pwmPair_refused (m : Module) (d : Duty) : (s.pwmPair m d).refused = s.refused := rfl

@[simp] theorem State.pwmPair_inputs (m : Module) (d : Duty) : (s.pwmPair m d).inputs = s.inputs := rfl

@[simp] theorem State.pwmPair_bootNext (m : Module) (d : Duty) : (s.pwmPair m d).bootNext = s.bootNext := rfl

@[simp] theorem State.pwmPair_draws (m : Module) (d : Duty) : (s.pwmPair m d).draws = s.draws := rfl

@[simp] theorem State.setDisplayValue_cfg (v : Int) (p : Policy) : (s.setDisplayValue v p).cfg = s.cfg := rfl

@[simp] theorem State.setDisplayValue_colorTemp (v : Int) (p : Policy) : (s.setDisplayValue v p).colorTemp = s.colorTemp := rfl

@[simp] theorem State.setDisplayValue_intensity (v : Int) (p : Policy) : (s.setDisplayValue v p).intensity = s.intensity := rfl

@[simp] theorem State.setDisplayValue_mode (v : Int) (p : Policy) : (s.setDisplayValue v p).mode = s.mode := rfl

@[simp] theorem State.setDisplayValue_encRawIntensity (v : Int) (p : Policy) : (s.setDisplayValue v p).encRawIntensity = s.encRawIntensity := rfl

@[simp] theorem State.setDisplayValue_encRawColor (v : Int) (p : Policy) : (s.setDisplayValue v p).encRawColor = s.encRawColor := rfl

@[simp] theorem State.setDisplayValue_prevAb (v : Int) (p : Policy) : (s.setDisplayValue v p).prevAb = s.prevAb := rfl

@[simp] theorem State.setDisplayValue_debState (v : Int) (p : Policy) : (s.setDisplayValue v p).debState = s.debState := rfl

@[simp] theorem State.setDisplayValue_debCount (v : Int) (p : Policy) : (s.setDisplayValue v p).debCount = s.debCount := rfl

@[simp] theorem State.setDisplayValue_disp (v : Int) (p : Policy) : (s.setDisplayValue v p).disp = render v p := rfl

@[simp] theorem State.setDisplayValue_scanPos (v : Int) (p : Policy) : (s.setDisplayValue v p).scanPos = s.scanPos := rfl

@[simp] theorem State.setDisplayValue_segOut (v : Int) (p : Policy) : (s.setDisplayValue v p).segOut = s.segOut := rfl

@[simp] theorem State.setDisplayValue_digSel (v : Int) (p : Policy) : (s.setDisplayValue v p).digSel = s.digSel := rfl

@[simp] theorem State.setDisplayValue_pwm (v : Int) (p : Policy) : (s.setDisplayValue v p).pwm = s.pwm := rfl

@[simp] theorem State.setDisplayValue_auxColdPct (v : Int) (p : Policy) : (s.setDisplayValue v p).auxColdPct = s.auxColdPct := rfl

@[simp] theorem State.setDisplayValue_auxWarmPct (v : Int) (p : Policy) : (s.setDisplayValue v p).auxWarmPct = s.auxWarmPct := rfl

@[simp] theorem State.setDisplayValue_dt (v : Int) (p : Policy) : (s.setDisplayValue v p).dt = s.dt := rfl

@[simp] theorem State.setDisplayValue_phase (v : Int) (p : Policy) : (s.setDisplayValue v p).phase = s.phase := rfl

@[simp] theorem State.setDisplayValue_fault (v : Int) (p : Policy) : (s.setDisplayValue v p).fault = s.fault := rfl

@[simp] theorem State.setDisplayValue_refused (v : Int) (p : Policy) : (s.setDisplayValue v p).refused = s.refused := rfl

@[simp] theorem State.setDisplayValue_inputs (v : Int) (p : Policy) : (s.setDisplayValue v p).inputs = s.inputs := rfl

@[simp] theorem State.setDisplayValue_bootNext (v : Int) (p : Policy) : (s.setDisplayValue v p).bootNext = s.bootNext := rfl

@[simp] theorem State.setDisplayValue_draws (v : Int) (p : Policy) : (s.setDisplayValue v p).draws = s.draws := rfl

@[simp] theorem State.showActive_cfg : (s.showActive).cfg = s.cfg := rfl

@[simp] theorem State.showActive_colorTemp : (s.showActive).colorTemp = s.colorTemp := rfl

@[simp] theorem State.showActive_intensity : (s.showActive).intensity = s.intensity := rfl

@[simp] theorem State.showActive_mode : (s.showActive).mode = s.mode := rfl

@[simp] theorem State.showActive_encRawIntensity : (s.showActive).encRawIntensity = s.encRawIntensity := rfl

@[simp] theorem State.showActive_encRawColor : (s.showActive).encRawColor = s.encRawColor := rfl

@[simp] theorem State.showActive_prevAb : (s.showActive).prevAb = s.prevAb := rfl

@[simp] theorem State.showActive_debState : (s.showActive).debState = s.debState := rfl

@[simp] theorem State.showActive_debCount : (s.showActive).debCount = s.debCount := rfl

@[simp] theorem State.showActive_disp : (s.showActive).disp = render (s.valueOf s.mode) (policyOf s.mode) := rfl

@[simp] theorem State.showActive_scanPos : (s.showActive).scanPos = s.scanPos := rfl

@[simp] theorem State.showActive_segOut : (s.showActive).segOut = s.segOut := rfl

@[simp] theorem State.showActive_digSel : (s.showActive).digSel = s.digSel := rfl

@[simp] theorem State.showActive_pwm : (s.showActive).pwm = s.pwm := rfl

@[simp] theorem State.showActive_auxColdPct : (s.showActive).auxColdPct = s.auxColdPct := rfl

@[simp] theorem State.showActive_auxWarmPct : (s.showActive).auxWarmPct = s.auxWarmPct := rfl

@[simp] theorem State.showActive_dt : (s.showActive).dt = s.dt := rfl

@[simp] theorem State.showActive_phase : (s.showActive).phase = s.phase := rfl

@[simp] theorem State.showActive_fault : (s.showActive).fault = s.fault := rfl

@[simp] theorem State.showActive_refused : (s.showActive).refused = s.refused := rfl

@[simp] theorem State.showActive_inputs : (s.showActive).inputs = s.inputs := rfl

@[simp] theorem State.showActive_bootNext : (s.showActive).bootNext = s.bootNext := rfl

@[simp] theorem State.showActive_draws : (s.showActive).draws = s.draws := rfl

@[simp] theorem State.auxOutput_cfg (key : BitVec 8) : (s.auxOutput key).cfg = s.cfg := rfl

@[simp] theorem State.auxOutput_colorTemp (key : BitVec 8) : (s.auxOutput key).colorTemp = s.colorTemp := rfl

@[simp] theorem State.auxOutput_intensity (key : BitVec 8) : (s.auxOutput key).intensity = s.intensity := rfl

@[simp] theorem State.auxOutput_mode (key : BitVec 8) : (s.auxOutput key).mode = s.mode := rfl

@[simp] theorem State.auxOutput_encRawIntensity (key : BitVec 8) : (s.auxOutput key).encRawIntensity = s.encRawIntensity := rfl

@[simp] theorem State.auxOutput_encRawColor (key : BitVec 8) : (s.auxOutput key).encRawColor = s.encRawColor := rfl

@[simp] theorem State.auxOutput_prevAb (key : BitVec 8) : (s.auxOutput key).prevAb = s.prevAb := rfl

@[simp] theorem State.auxOutput_debState (key : BitVec 8) : (s.auxOutput key).debState = s.debState := rfl

@[simp] theorem State.auxOutput_debCount (key : BitVec 8) : (s.auxOutput key).debCount = s.debCount := rfl

@[simp] theorem State.auxOutput_disp (key : BitVec 8) : (s.auxOutput key).disp = s.disp := rfl

@[simp] theorem State.auxOutput_scanPos (key : BitVec 8) : (s.auxOutput key).scanPos = s.scanPos := rfl

@[simp] theorem State.auxOutput_segOut (key : BitVec 8) : (s.auxOutput key).segOut = s.segOut := rfl

@[simp] theorem State.auxOutput_digSel (key : BitVec 8) : (s.auxOutput key).digSel = s.digSel := rfl

@[simp] theorem State.auxOutput_pwm (key : BitVec 8) : (s.auxOutput key).pwm = ⟨⟨freeDuty s.cfg key s.draws, freeDuty s.cfg key (s.draws + 1)⟩,
      ⟨freeDuty s.cfg key (s.draws + 2), freeDuty s.cfg key (s.draws + 3)⟩⟩ := rfl

@[simp] theorem State.auxOutput_auxColdPct (key : BitVec 8) : (s.auxOutput key).auxColdPct = s.auxColdPct := rfl

@[simp] theorem State.auxOutput_auxWarmPct (key : BitVec 8) : (s.auxOutput key).auxWarmPct = s.auxWarmPct := rfl

@[simp] theorem State.auxOutput_dt (key : BitVec 8) : (s.auxOutput key).dt = s.dt := rfl

@[simp] theorem State.auxOutput_phase (key : BitVec 8) : (s.auxOutput key).phase = s.phase := rfl

@[simp] theorem State.auxOutput_fault (key : BitVec 8) : (s.auxOutput key).fault = s.fault := rfl

@[simp] theorem State.auxOutput_refused (key : BitVec 8) : (s.auxOutput key).refused = s.refused := rfl

@[simp] theorem State.auxOutput_inputs (key : BitVec 8) : (s.auxOutput key).inputs = s.inputs := rfl

@[simp] theorem State.auxOutput_bootNext (key : BitVec 8) : (s.auxOutput key).bootNext = s.bootNext := rfl

@[simp] theorem State.auxOutput_draws (key : BitVec 8) : (s.auxOutput key).draws = s.draws + 4 := rfl

@[simp] theorem State.setRaw_cfg (m : Mode) (v : Int) : (s.setRaw m v).cfg = s.cfg := by cases m <;> rfl

@[simp] theorem State.setRaw_colorTemp (m : Mode) (v : Int) : (s.setRaw m v).colorTemp = s.colorTemp := by cases m <;> rfl

@[simp] theorem State.setRaw_intensity (m : Mode) (v : Int) : (s.setRaw m v).intensity = s.intensity := by cases m <;> rfl

@[simp] theorem State.setRaw_mode (m : Mode) (v : Int) : (s.setRaw m v).mode = s.mode := by cases m <;> rfl

@[simp] theorem State.setRaw_encRawIntensity (m : Mode) (v : Int) : (s.setRaw m v).encRawIntensity = if m = .intensity then v else s.encRawIntensity := by cases m <;> rfl

@[simp] theorem State.setRaw_encRawColor (m : Mode) (v : Int) : (s.setRaw m v).encRawColor = if m = .color then v else s.encRawColor := by cases m <;> rfl

@[simp] theorem State.setRaw_prevAb (m : Mode) (v : Int) : (s.setRaw m v).prevAb = s.prevAb := by cases m <;> rfl

@[simp] theorem State.setRaw_debState (m : Mode) (v : Int) : (s.setRaw m v).debState = s.debState := by cases m <;> rfl

@[simp] theorem State.setRaw_debCount (m : Mode) (v : Int) : (s.setRaw m v).debCount = s.debCount := by cases m <;> rfl

@[simp] theorem State.setRaw_disp (m : Mode) (v : Int) : (s.setRaw m v).disp = s.disp := by cases m <;> rfl

@[simp] theorem State.setRaw_scanPos (m : Mode) (v : Int) : (s.setRaw m v).scanPos = s.scanPos := by cases m <;> rfl

@[simp] theorem State.setRaw_segOut (m : Mode) (v : Int) : (s.setRaw m v).segOut = s.segOut := by cases m <;> rfl

@[simp] theorem State.setRaw_digSel (m : Mode) (v : Int) : (s.setRaw m v).digSel = s.digSel := by cases m <;> rfl

@[simp] theorem State.setRaw_pwm (m : Mode) (v : Int) : (s.setRaw m v).pwm = s.pwm := by cases m <;> rfl

@[simp] theorem State.setRaw_auxColdPct (m : Mode) (v : Int) : (s.setRaw m v).auxColdPct = s.auxColdPct := by cases m <;> rfl

@[simp] theorem State.setRaw_auxWarmPct (m : Mode) (v : Int) : (s.setRaw m v).auxWarmPct = s.auxWarmPct := by cases m <;> rfl

@[simp] theorem State.setRaw_dt (m : Mode) (v : Int) : (s.setRaw m v).dt = s.dt := by cases m <;> rfl

@[simp] theorem State.setRaw_phase (m : Mode) (v : Int) : (s.setRaw m v).phase = s.phase := by cases m <;> rfl

@[simp] theorem State.setRaw_fault (m : Mode) (v : Int) : (s.setRaw m v).fault = s.fault := by cases m <;> rfl

@[simp] theorem State.setRaw_refused (m : Mode) (v : Int) : (s.setRaw m v).refused = s.refused := by cases m <;> rfl

@[simp] theorem State.setRaw_inputs (m : Mode) (v : Int) : (s.setRaw m v).inputs = s.inputs := by cases m <;> rfl

@[simp] theorem State.setRaw_bootNext (m : Mode) (v : Int) : (s.setRaw m v).bootNext = s.bootNext := by cases m <;> rfl

@[simp] theorem State.setRaw_draws (m : Mode) (v : Int) : (s.setRaw m v).draws = s.draws := by cases m <;> rfl

@[simp] theorem State.setValue_cfg (m : Mode) (v : Int) : (s.setValue m v).cfg = s.cfg := by cases m <;> rfl

@[simp] theorem State.setValue_colorTemp (m : Mode) (v : Int) : (s.setValue m v).colorTemp = if m = .color then v else s.colorTemp := by cases m <;> rfl

@[simp] theorem State.setValue_intensity (m : Mode) (v : Int) : (s.setValue m v).intensity = if m = .intensity then v else s.intensity := by cases m <;> rfl

@[simp] theorem State.setValue_mode (m : Mode) (v : Int) : (s.setValue m v).mode = s.mode := by cases m <;> rfl

@[simp] theorem State.setValue_encRawIntensity (m : Mode) (v : Int) : (s.setValue m v).encRawIntensity = s.encRawIntensity := by cases m <;> rfl

@[simp] theorem State.setValue_encRawColor (m : Mode) (v : Int) : (s.setValue m v).encRawColor = s.encRawColor := by cases m <;> rfl

@[simp] theorem State.setValue_prevAb (m : Mode) (v : Int) : (s.setValue m v).prevAb = s.prevAb := by cases m <;> rfl

@[simp] theorem State.setValue_debState (m : Mode) (v : Int) : (s.setValue m v).debState = s.debState := by cases m <;> rfl

@[simp] theorem State.setValue_debCount (m : Mode) (v : Int) : (s.setValue m v).debCount = s.debCount := by cases m <;> rfl

@[simp] theorem State.setValue_disp (m : Mode) (v : Int) : (s.setValue m v).disp = s.disp := by cases m <;> rfl

@[simp] theorem State.setValue_scanPos (m : Mode) (v : Int) : (s.setValue m v).scanPos = s.scanPos := by cases m <;> rfl

@[simp] theorem State.setValue_segOut (m : Mode) (v : Int) : (s.setValue m v).segOut = s.segOut := by cases m <;> rfl

@[simp] theorem State.setValue_digSel (m : Mode) (v : Int) : (s.setValue m v).digSel = s.digSel := by cases m <;> rfl

@[simp] theorem State.setValue_pwm (m : Mode) (v : Int) : (s.setValue m v).pwm = s.pwm := by cases m <;> rfl

@[simp] theorem State.setValue_auxColdPct (m : Mode) (v : Int) : (s.setValue m v).auxColdPct = s.auxColdPct := by cases m <;> rfl

@[simp] theorem State.setValue_auxWarmPct (m : Mode) (v : Int) : (s.setValue m v).auxWarmPct = s.auxWarmPct := by cases m <;> rfl

@[simp] theorem State.setValue_dt (m : Mode) (v : Int) : (s.setValue m v).dt = s.dt := by cases m <;> rfl

@[simp] theorem State.setValue_phase (m : Mode) (v : Int) : (s.setValue m v).phase = s.phase := by cases m <;> rfl

@[simp] theorem State.setValue_fault (m : Mode) (v : Int) : (s.setValue m v).fault = s.fault := by cases m <;> rfl

@[simp] theorem State.setValue_refused (m : Mode) (v : Int) : (s.setValue m v).refused = s.refused := by cases m <;> rfl

@[simp] theorem State.setValue_inputs (m : Mode) (v : Int) : (s.setValue m v).inputs = s.inputs := by cases m <;> rfl

@[simp] theorem State.setValue_bootNext (m : Mode) (v : Int) : (s.setValue m v).bootNext = s.bootNext := by cases m <;> rfl

@[simp] theorem State.setValue_draws (m : Mode) (v : Int) : (s.setValue m v).draws = s.draws := by cases m <;> rfl

@[simp] theorem State.present_cfg (w : EventWord) : (s.present w).cfg = s.cfg := rfl

@[simp] theorem State.present_colorTemp (w : EventWord) : (s.present w).colorTemp = s.colorTemp := rfl

@[simp] theorem State.present_intensity (w : EventWord) : (s.present w).intensity = s.intensity := rfl

@[simp] theorem State.present_mode (w : EventWord) : (s.present w).mode = s.mode := rfl

@[simp] theorem State.present_encRawIntensity (w : EventWord) : (s.present w).encRawIntensity = s.encRawIntensity := rfl

@[simp] theorem State.present_encRawColor (w : EventWord) : (s.present w).encRawColor = s.encRawColor := rfl

@[simp] theorem State.present_prevAb (w : EventWord) : (s.present w).prevAb = s.prevAb := rfl

@[simp] theorem State.present_debState (w : EventWord) : (s.present w).debState = s.debState := rfl

@[simp] theorem State.present_debCount (w : EventWord) : (s.present w).debCount = s.debCount := rfl

@[simp] theorem State.present_disp (w : EventWord) : (s.present w).disp = s.disp := rfl

@[simp] theorem State.present_scanPos (w : EventWord) : (s.present w).scanPos = s.scanPos := rfl

@[simp] theorem State.present_segOut (w : EventWord) : (s.present w).segOut = s.segOut := rfl

@[simp] theorem State.present_digSel (w : EventWord) : (s.present w).digSel = s.digSel := rfl

@[simp] theorem State.present_pwm (w : EventWord) : (s.present w).pwm = s.pwm := rfl

@[simp] theorem State.present_auxColdPct (w : EventWord) : (s.present w).auxColdPct = s.auxColdPct := rfl

@[simp] theorem State.present_auxWarmPct (w : EventWord) : (s.present w).auxWarmPct = s.auxWarmPct := rfl

@[simp] theorem State.present_dt (w : EventWord) : (s.present w).dt = s.dt := rfl

@[simp] theorem State.present_phase (w : EventWord) : (s.present w).phase = s.phase := rfl

@[simp] theorem State.present_fault (w : EventWord) : (s.present w).fault = s.fault := rfl

@[simp] theorem State.present_refused (w : EventWord) : (s.present w).refused = s.refused := rfl

@[simp] theorem State.present_inputs (w : EventWord) : (s.present w).inputs = w :: s.inputs := rfl

@[simp] theorem State.present_bootNext (w : EventWord) : (s.present w).bootNext = s.bootNext := rfl

@[simp] theorem State.present_draws (w : EventWord) : (s.present w).draws = s.draws := rfl


@[simp] theorem State.pwmPair_m0 (d : Duty) : (s.pwmPair .m0 d).pwm = ⟨d, s.pwm.m1⟩ := rfl

@[simp] theorem State.pwmPair_m1 (d : Duty) : (s.pwmPair .m1 d).pwm = ⟨s.pwm.m0, d⟩ := rfl

@[simp] theorem State.setRaw_rawOf (m : Mode) (v : Int) : (s.setRaw m v).rawOf m = v := by cases m <;> rfl

@[simp] theorem State.setRaw_valueOf (m n : Mode) (v : Int) : (s.setRaw m v).valueOf n = s.valueOf n := by
  cases m <;> cases n <;> rfl

@[simp] theorem State.setValue_valueOf (m : Mode) (v : Int) : (s.setValue m v).valueOf m = v := by cases m <;> rfl

@[simp] theorem State.setValue_rawOf (m n : Mode) (v : Int) : (s.setValue m v).rawOf n = s.rawOf n := by
  cases m <;> cases n <;> rfl

@[simp] theorem State.commit_ok (t : State) : s.commit (.ok t) = t := rfl

@[simp] theorem State.commit_error (f : Fault) : s.commit (.error f) = s.raise f := rfl

end Sys2Proof.Machine
end

