-- ==== Sys2Proof/Laws/Ops.lean ====
section
/-! SUPPORT. One lemma per shared operation that says once everything it can do; proofs cite these and do not unfold the
operations. -/

namespace Sys2Proof.Machine

variable {s t : State}

/-- `setLighting` succeeds exactly where the intensity is off, or both indices are in range, and then writes the module's
pair and nothing else. -/
theorem setLighting_ok_iff {m : Module} {ct i : Int} :
    setLighting m ct i s = .ok t ↔
      (i = -1 ∨ (0 ≤ i ∧ i ≤ 9) ∧ s.cfg.colorMin ≤ ct ∧ ct ≤ s.cfg.colorMax) ∧
        t = s.pwmPair m (lightDuty s.cfg s.dt ct i) := by
  by_cases h : i = -1
  · simp [setLighting, lightDuty, h, eq_comm]
  · by_cases h1 : 0 ≤ i ∧ i ≤ 9
    · by_cases h2 : s.cfg.colorMin ≤ ct ∧ ct ≤ s.cfg.colorMax
      · simp [setLighting, lightDuty, h, h1, h2, brightnessLookup, dtRead, eq_comm]
      · simp [setLighting, h, h1, brightnessLookup, dtRead, h2]
    · simp [setLighting, h, h1, brightnessLookup]

/-- `setLighting` faults exactly where an index it reads is out of range; the curve's fault comes first (R233). -/
theorem setLighting_error_iff {m : Module} {ct i : Int} {f : Fault} :
    setLighting m ct i s = .error f ↔
      (i ≠ -1 ∧ ¬(0 ≤ i ∧ i ≤ 9) ∧ f = .intensityOutOfRange i) ∨
        ((0 ≤ i ∧ i ≤ 9) ∧ ¬(s.cfg.colorMin ≤ ct ∧ ct ≤ s.cfg.colorMax) ∧ f = .dtIndexOutOfRange ct) := by
  by_cases h : i = -1
  · subst h; simp [setLighting]
  · by_cases h1 : 0 ≤ i ∧ i ≤ 9
    · by_cases h2 : s.cfg.colorMin ≤ ct ∧ ct ≤ s.cfg.colorMax
      · simp [setLighting, h, h1, h2, brightnessLookup, dtRead]
      · simp [setLighting, h, h1, brightnessLookup, dtRead, h2, eq_comm]
    · simp [setLighting, h, h1, brightnessLookup, eq_comm]

theorem pwmPair_both (d : Duty) : (s.pwmPair .m0 d).pwmPair .m1 d = { s with pwm := Pwm.both d } := rfl

/-- `driveBoth` succeeds exactly where the state's own values are in range, and then writes the four registers and nothing
else. -/
theorem driveBoth_ok_iff :
    driveBoth s = .ok t ↔
      (s.intensity = -1 ∨
          (0 ≤ s.intensity ∧ s.intensity ≤ 9) ∧ s.cfg.colorMin ≤ s.colorTemp ∧ s.colorTemp ≤ s.cfg.colorMax) ∧
        t = { s with pwm := Pwm.both (lightDuty s.cfg s.dt s.colorTemp s.intensity) } := by
  unfold driveBoth
  constructor
  · intro h
    split at h
    · cases h
    · next u hu =>
      obtain ⟨h1, rfl⟩ := setLighting_ok_iff.1 hu
      obtain ⟨_, rfl⟩ := setLighting_ok_iff.1 h
      exact ⟨h1, by simp [pwmPair_both]⟩
  · rintro ⟨h1, rfl⟩
    have hu : setLighting .m0 s.colorTemp s.intensity s =
        .ok (s.pwmPair .m0 (lightDuty s.cfg s.dt s.colorTemp s.intensity)) := setLighting_ok_iff.2 ⟨h1, rfl⟩
    rw [hu]
    exact setLighting_ok_iff.2 ⟨by simpa using h1, by simp [pwmPair_both]⟩

/-- `driveBoth` on a state whose values are in range. -/
theorem driveBoth_inRange (h1 : -1 ≤ s.intensity) (h2 : s.intensity ≤ 9) (h3 : s.cfg.colorMin ≤ s.colorTemp)
    (h4 : s.colorTemp ≤ s.cfg.colorMax) :
    driveBoth s = .ok { s with pwm := Pwm.both (lightDuty s.cfg s.dt s.colorTemp s.intensity) } :=
  driveBoth_ok_iff.2 ⟨by by_cases h : s.intensity = -1 <;> [exact .inl h; exact .inr ⟨⟨by omega, h2⟩, h3, h4⟩], rfl⟩

/-- What `AFTER_LIGHTING_CHANGE` leaves, where it does not fault: the registers driven, and the display rewritten if the
changed value is the active mode's. -/
theorem afterLightingChange_ok {which : Mode} (h : afterLightingChange which s = .ok t) :
    t = { s with
          pwm := Pwm.both (lightDuty s.cfg s.dt s.colorTemp s.intensity)
          disp := if which = s.mode then render (s.valueOf s.mode) (policyOf s.mode) else s.disp } := by
  unfold afterLightingChange at h
  split at h
  · cases h
  · next u hu =>
    obtain ⟨_, rfl⟩ := driveBoth_ok_iff.1 hu
    cases h
    by_cases hw : which = s.mode
    · simp only [if_pos hw]
      cases hm : s.mode <;> simp [State.showActive, State.setDisplayValue, State.valueOf]
    · simp [hw]

theorem afterLightingChange_inRange {which : Mode} (h1 : -1 ≤ s.intensity) (h2 : s.intensity ≤ 9)
    (h3 : s.cfg.colorMin ≤ s.colorTemp) (h4 : s.colorTemp ≤ s.cfg.colorMax) :
    afterLightingChange which s = .ok { s with
      pwm := Pwm.both (lightDuty s.cfg s.dt s.colorTemp s.intensity)
      disp := if which = s.mode then render (s.valueOf s.mode) (policyOf s.mode) else s.disp } := by
  have h : ∃ t, afterLightingChange which s = .ok t := by
    simp [afterLightingChange, driveBoth_inRange h1 h2 h3 h4]
  obtain ⟨t, ht⟩ := h
  rw [ht, afterLightingChange_ok ht]

/-- What an emission leaves, where it does not fault. -/
theorem emit_ok {v : Int} (h : emit v s = .ok t) :
    t = { s.setValue s.mode v with
          disp := render v (policyOf s.mode)
          pwm := Pwm.both (lightDuty s.cfg s.dt (s.setValue s.mode v).colorTemp (s.setValue s.mode v).intensity) } := by
  obtain ⟨_, rfl⟩ := driveBoth_ok_iff.1 h
  simp [State.setDisplayValue]

/-- A committed handler answers what it answers, or the fault and no other change. -/
theorem commit_cases (r : Except Fault State) :
    (∃ t, r = .ok t ∧ s.commit r = t) ∨ ∃ f, r = .error f ∧ s.commit r = { s with fault := some f } := by
  cases r with
  | ok t => exact .inl ⟨t, rfl, rfl⟩
  | error f => exact .inr ⟨f, rfl, rfl⟩

/-- The clamp stays in its bounds. -/
theorem clamp_mem {v lo hi : Int} (h : lo ≤ hi) : lo ≤ clamp v lo hi ∧ clamp v lo hi ≤ hi := by
  unfold clamp; omega

/-- A free duty is in `[0, PWM_MAX]` (R219). -/
theorem freeDuty_mem {c : Cfg} (h : 0 ≤ c.pwmMax) (key : BitVec 8) (k : Nat) :
    0 ≤ freeDuty c key k ∧ freeDuty c key k ≤ c.pwmMax := withinRange_mem h _

/-- A lit pair is in `[0, PWM_MAX]`, whatever the table and the curve hold (R135). -/
theorem lightDuty_inRange {c : Cfg} (h : 0 ≤ c.pwmMax) (dt : DutyTable) (ct i : Int) :
    (lightDuty c dt ct i).InRange c.pwmMax := by
  unfold lightDuty
  split
  · exact ⟨le_refl _, h, le_refl _, h⟩
  · exact ⟨(clamp_mem h).1, (clamp_mem h).2, (clamp_mem h).1, (clamp_mem h).2⟩

/-- Taking an event off the list of presented words. -/
theorem takeEvent_cons {w : EventWord} {rest : List EventWord} (h : s.inputs = w :: rest) :
    s.takeEvent = match decode w with
      | .event i => .event i { s with inputs := rest }
      | .reserved => .refusedAs { s with inputs := rest, refused := some .reservedEvent } := by
  simp only [State.takeEvent, h]
  cases decode w <;> rfl

end Sys2Proof.Machine
end

