-- ==== Sys2Proof/Laws/PerInstr.lean ====
section
/-! SUPPORT. Families of statements about every instruction, one lemma per constructor. `TableRow`: the word of a well-formed
instruction carries its row's fixed bits (spec/opcode_table.json `match` and `mask`). -/

namespace Sys2Proof.Laws

/-- The row's `mask` in spec/opcode_table.json. -/
def rowMask : Instr → EventWord
  | .encEdge _ => 0xFFFC
  | .btnEdge _ => 0xFFFE
  | .debTick _ => 0xFFFE
  | .scanTick => 0xFFFF
  | .keyH => 0xFFFF
  | .keyB => 0xFFFF
  | .keyC => 0xFFFF
  | .keyD => 0xFFFF
  | .keyQ => 0xFFFF
  | .keyA => 0xFFFF
  | .keyW => 0xFFFF
  | .keyS => 0xFFFF
  | .keyOther _ => 0xFF00

/-- The row's `match` in spec/opcode_table.json. -/
def rowMatch : Instr → EventWord
  | .encEdge _ => 0x1000
  | .btnEdge _ => 0x2000
  | .debTick _ => 0x3000
  | .scanTick => 0x4000
  | .keyH => 0x5068
  | .keyB => 0x5062
  | .keyC => 0x5063
  | .keyD => 0x5064
  | .keyQ => 0x5071
  | .keyA => 0x5061
  | .keyW => 0x5077
  | .keyS => 0x5073
  | .keyOther _ => 0x5000

/-- The encoded word, under the row's mask, is the row's match. -/
def TableRow.Statement (i : Instr) : Prop := i.wellFormed = true → encode i &&& rowMask i = rowMatch i

theorem TableRow.encEdge (ab : BitVec 2) : TableRow.Statement (.encEdge ab) := fun _ => by revert ab; decide

theorem TableRow.btnEdge (e : Edge) : TableRow.Statement (.btnEdge e) := fun _ => by cases e <;> rfl

theorem TableRow.debTick (l : Level) : TableRow.Statement (.debTick l) := fun _ => by cases l <;> rfl

theorem TableRow.scanTick : TableRow.Statement .scanTick := fun _ => rfl

theorem TableRow.keyH : TableRow.Statement .keyH := fun _ => rfl

theorem TableRow.keyB : TableRow.Statement .keyB := fun _ => rfl

theorem TableRow.keyC : TableRow.Statement .keyC := fun _ => rfl

theorem TableRow.keyD : TableRow.Statement .keyD := fun _ => rfl

theorem TableRow.keyQ : TableRow.Statement .keyQ := fun _ => rfl

theorem TableRow.keyA : TableRow.Statement .keyA := fun _ => rfl

theorem TableRow.keyW : TableRow.Statement .keyW := fun _ => rfl

theorem TableRow.keyS : TableRow.Statement .keyS := fun _ => rfl

theorem TableRow.keyOther (c : BitVec 8) : TableRow.Statement (.keyOther c) := fun _ => by revert c; decide

end Sys2Proof.Laws
end

