-- ==== Sys2Proof/Laws/Step.lean ====
section
/-! SUPPORT. Everything one step can do, once (spec/20_memory.md R60), the boot step in BOOT, and running events in
order. -/

namespace Sys2Proof.Machine

variable {s t : State}

/-- A step that answers a next state is a boot step, the wait with no event, one event's handler, or the refusal of a
reserved word; and it was taken with neither a fault nor a refusal. -/
theorem step_next_cases (h : step s = .next t) :
    (s.fault = none ∧ s.refused = none) ∧
      ((s.phase = .boot ∧ t = bootOnce s) ∨
        (s.phase = .ready ∧ s.inputs = [] ∧ t = s) ∨
        (s.phase = .ready ∧ ∃ w rest i, s.inputs = w :: rest ∧ decode w = .event i ∧
          exec i { s with inputs := rest } = .next t) ∨
        (s.phase = .ready ∧ ∃ w rest, s.inputs = w :: rest ∧ decode w = .reserved ∧
          t = { s with inputs := rest, refused := some .reservedEvent })) := by
  unfold step at h
  rcases hf : s.fault with _ | f
  · rcases hr : s.refused with _ | r
    · refine ⟨⟨rfl, rfl⟩, ?_⟩
      rcases hp : s.phase with _ | _
      · simp only [hf, hr, hp] at h
        cases h
        exact .inl ⟨rfl, rfl⟩
      · simp only [hf, hr, hp] at h
        rcases hi : s.inputs with _ | ⟨w, rest⟩
        · simp only [State.takeEvent, hi] at h
          cases h
          exact .inr (.inl ⟨rfl, rfl, rfl⟩)
        · rw [takeEvent_cons hi] at h
          rcases hd : decode w with i | _
          · simp only [hd] at h
            exact .inr (.inr (.inl ⟨rfl, w, rest, i, rfl, hd, by rw [hf, hr, hp] at h; exact h⟩))
          · simp only [hd] at h
            cases h
            exact .inr (.inr (.inr ⟨rfl, w, rest, rfl, hd, by rw [hf, hp]⟩))
    · simp only [hf, hr] at h; cases h
  · simp only [hf] at h; cases h

/-- Running events in order (R61). -/
theorem runEvents_append {l m : List Instr} (h : runEvents l s = .next t) : runEvents (l ++ m) s = runEvents m t := by
  induction l generalizing s with
  | nil => cases h; rfl
  | cons a l ih =>
    simp only [runEvents, List.cons_append] at h ⊢
    rcases he : exec a s with u | _ | _ <;> simp only [he] at h ⊢
    · exact ih h
    · cases h
    · cases h

/-- A rendering never holds the decimal point (spec/45_multiplexed_7seg_driver.md R196). -/
theorem render_ne_dp (v : Int) (p : Policy) : (render v p).left ≠ .dp ∧ (render v p).right ≠ .dp := by
  have hd : ∀ n, digitGlyph n ≠ .dp := by intro n; unfold digitGlyph; split <;> simp
  unfold render
  split_ifs <;> simp [hd]

end Sys2Proof.Machine
end

