-- ==== Sys2Proof/Tests/Slice0.lean ====
section
/-! SUPPORT. Tests against the spec's own vectors (spec/95_test_vectors.md, named V-… below), the checks of WellFormed.lean
each with an ill-formed term it refuses, and for every obligation with hypotheses a witness that meets them, clause by
clause. -/

namespace Sys2Proof.Tests

open Sys2Proof.Machine

-- One theorem at a time: each kernel evaluation otherwise holds a thread of its own.
set_option Elab.async false

/-! ### States and configurations -/

/-- `BOOT0`: the state after boot under `EXAMPLE_CFG` (95_test_vectors.md section 0). -/
def boot0 : State :=
  { State.resetWith exampleCfg with
    dt := exampleTable
    pwm := ⟨⟨175, 100⟩, ⟨175, 100⟩⟩
    disp := ⟨.blank, .d5⟩
    phase := .ready
    bootNext := .enterReady }

/-- A state in COLOR mode at colour temperature `ct` and counter `rc`. -/
def colorAt (ct rc : Int) : State := { boot0 with mode := .color, colorTemp := ct, encRawColor := rc }

/-- A state in INTENSITY mode at intensity `i` and counter `ri`. -/
def intensityAt (i ri : Int) : State := { boot0 with intensity := i, encRawIntensity := ri }

/-- A state in DEBOUNCING with a countdown of `n`. -/
def debouncingAt (n : Int) : State := { boot0 with debState := .debouncing, debCount := n }

/-- A state in PRESSED. -/
def pressed0 : State := { boot0 with debState := .pressed }

/-- The configuration of V-B5, with the chromaticity `x` at 31 and the luminous flux `lc` of the cold LED. -/
def buildExample (x lc : Rat) : BuildCfg where
  chromaLo := 30
  chromaHi := 32
  chroma := [⟨30, 23/50, 2/5⟩, ⟨31, x, 2/5⟩, ⟨32, 31/100, 2/5⟩]
  ledWarm := ⟨23/50, 41/100⟩
  ledCold := ⟨31/100, 8/25⟩
  lumWarm := 1
  lumCold := lc

/-- `EXAMPLE_CFG` on the temperatures 30 to 32, with a builder. -/
def cfgB (b : BuildCfg) : Cfg :=
  { exampleCfg with tWarm := 30, tCold := 32, colorMin := 30, colorMax := 32, initColor := 31, source := .build b }

/-- The example of R119: V-B5. -/
def b5 : BuildCfg := buildExample (77/200) 1

/-- V-B7: 31 lies outside the segment. -/
def b7 : BuildCfg := buildExample (3/10) 1

/-- V-B8: a zero divisor at 31. -/
def b8 : BuildCfg := buildExample (23/50) 1

/-- Does `exec` answer a next state with this property? -/
def after (i : Instr) (s : State) (p : State → Bool) : Bool :=
  match exec i s with
  | .next t => p t
  | .fault _ => false
  | .refused _ => false

theorem next_of_after {i : Instr} {s : State} {p : State → Bool} (h : after i s p = true) :
    ∃ t, exec i s = .next t ∧ p t = true := by
  unfold after at h
  split at h
  · exact ⟨_, by assumption, h⟩
  · cases h
  · cases h

/-- The pair in both modules. -/
def bothAt (t : State) (w c : Int) : Bool := decide (t.pwm = ⟨⟨w, c⟩, ⟨w, c⟩⟩)

/-- `State.Inv` as a computation. -/
def inRange (s : State) : Bool :=
  let d (x : Duty) : Bool :=
    decide (0 ≤ x.warm) && decide (x.warm ≤ s.cfg.pwmMax) && decide (0 ≤ x.cold) && decide (x.cold ≤ s.cfg.pwmMax)
  s.cfg.wellFormed && decide (s.cfg.colorMin ≤ s.colorTemp) && decide (s.colorTemp ≤ s.cfg.colorMax) &&
    decide (-1 ≤ s.intensity) && decide (s.intensity ≤ 9) &&
    decide (-1 * s.cfg.divIntensity ≤ s.encRawIntensity) && decide (s.encRawIntensity ≤ 9 * s.cfg.divIntensity) &&
    decide (s.cfg.colorMin * s.cfg.divColor ≤ s.encRawColor) && decide (s.encRawColor ≤ s.cfg.colorMax * s.cfg.divColor) &&
    decide (0 ≤ s.debCount) && decide (s.debCount ≤ s.cfg.debCount) &&
    decide (s.debState = .debouncing → 1 ≤ s.debCount) &&
    decide (s.disp.left ≠ .dp) && decide (s.disp.right ≠ .dp) && decide (s.digSel ≠ 0b11) && d s.pwm.m0 && d s.pwm.m1 &&
    decide (0 ≤ s.auxColdPct) && decide (s.auxColdPct ≤ 100) && decide (0 ≤ s.auxWarmPct) && decide (s.auxWarmPct ≤ 100) &&
    DutyTable.suppliedOk s.dt s.cfg.pwmMax s.cfg.tWarm s.cfg.tCold && decide (s.fault = none)

/-- A table that R121 admits reads in `[0, PWM_MAX]` everywhere, and `{0, 0}` outside its temperatures. -/
theorem suppliedOk_get {dt : DutyTable} {p lo hi : Int} (h : DutyTable.suppliedOk dt p lo hi = true) (hp : 0 ≤ p) (t : Int) :
    (DutyTable.get dt t).InRange p ∧ (t < lo ∨ hi < t → DutyTable.get dt t = Duty.zero) := by
  rcases DutyTable.get_zero_or_mem dt t with e | e
  · exact ⟨e ▸ ⟨le_refl _, hp, le_refl _, hp⟩, fun _ => e⟩
  · simp only [DutyTable.suppliedOk, Bool.and_eq_true, List.all_eq_true, decide_eq_true_eq, and_assoc] at h
    obtain ⟨h1, h2, h3, h4, h5, h6⟩ := h.2 _ e
    exact ⟨⟨h3, h4, h5, h6⟩, fun o => by simp only at h1 h2; omega⟩

theorem inv_of_inRange {s : State} (h : inRange s = true) : s.Inv := by
  simp only [inRange, Bool.and_eq_true, decide_eq_true_eq, and_assoc] at h
  obtain ⟨h1, h2, h3, h4, h5, h6, h7, h8, h9, h10, h11, h12, h13, h14, h15, h16, h17, h18, h19, h20, h21, h22, h23, h24, h25,
    h26, h27, h28, h29⟩ := h
  have hd := suppliedOk_get h28 (h16.trans h17)
  exact ⟨h1, h2, h3, h4, h5, h6, h7, h8, h9, h10, h11, h12, h13, h14, h15, ⟨h16, h17, h18, h19⟩, ⟨h20, h21, h22, h23⟩, h24,
    h25, h26, h27, (Bool.and_eq_true_iff.1 h28).1,
    fun t => (hd t).1, fun t => (hd t).2, h29⟩

/-! ### Well-formedness: each check refuses an ill-formed term -/

theorem test_keyOther_command_char_is_ill_formed : Instr.wellFormed (.keyOther 0x62) = false := by decide

theorem test_exampleCfg_is_well_formed : exampleCfg.wellFormed = true := by decide +kernel

theorem test_builder_cfg_is_well_formed : (cfgB b5).wellFormed = true := by decide +kernel

theorem test_pwmMax_refused :
    ({ exampleCfg with pwmMax := 0 } : Cfg).pwmMaxOk = false ∧
      ({ exampleCfg with pwmMax := 2 ^ 24 + 1 } : Cfg).pwmMaxOk = false := by decide +kernel

/-- V-B9. -/
theorem test_temperatures_refused :
    ({ exampleCfg with tWarm := 30, tCold := 31 } : Cfg).temperaturesOk = false := by decide +kernel

theorem test_colorBounds_refused :
    ({ exampleCfg with colorMin := 26 } : Cfg).colorBoundsOk = false ∧
      ({ exampleCfg with colorMax := 66 } : Cfg).colorBoundsOk = false ∧
      ({ exampleCfg with colorMin := 41, colorMax := 40 } : Cfg).colorBoundsOk = false := by decide +kernel

theorem test_brightness_refused :
    ({ exampleCfg with brightness := List.replicate 9 1 } : Cfg).brightnessOk = false ∧
      ({ exampleCfg with brightness := 0 :: List.replicate 9 1 } : Cfg).brightnessOk = false ∧
      ({ exampleCfg with brightness := List.replicate 9 1 ++ [2] } : Cfg).brightnessOk = false ∧
      ({ exampleCfg with brightness := List.replicate 9 1 ++ [1/2] } : Cfg).brightnessOk = false := by decide +kernel

/-- V-F4. -/
theorem test_divisors_refused :
    ({ exampleCfg with divColor := 0 } : Cfg).divisorsOk = false ∧
      ({ exampleCfg with divIntensity := 0 } : Cfg).divisorsOk = false := by decide +kernel

/-- V-F4. -/
theorem test_debCount_refused : ({ exampleCfg with debCount := 0 } : Cfg).debCountOk = false := by decide +kernel

/-- V-F4. -/
theorem test_initLighting_refused :
    ({ exampleCfg with initColor := 66 } : Cfg).initLightingOk = false ∧
      ({ exampleCfg with initIntensity := -2 } : Cfg).initLightingOk = false ∧
      ({ exampleCfg with initIntensity := 10 } : Cfg).initLightingOk = false := by decide +kernel

theorem test_initAux_refused :
    ({ exampleCfg with initAuxCold := 101 } : Cfg).initAuxOk = false ∧
      ({ exampleCfg with initAuxWarm := -1 } : Cfg).initAuxOk = false := by decide +kernel

theorem test_chroma_gap_refused :
    ({ b5 with chroma := [⟨30, 0, 0⟩, ⟨32, 0, 0⟩] } : BuildCfg).contiguousOk = false := by decide +kernel

theorem test_chroma_point_refused :
    ({ b5 with chroma := [⟨30, 0, 0⟩, ⟨31, 2, 0⟩, ⟨32, 0, 0⟩] } : BuildCfg).pointsOk = false := by decide +kernel

theorem test_chroma_range_refused : b5.coversOk 29 32 = false ∧ b5.coversOk 30 33 = false := by decide +kernel

theorem test_leds_refused :
    ({ b5 with ledCold := ⟨23/50, 1/2⟩ } : BuildCfg).ledsOk = false ∧
      ({ b5 with ledWarm := ⟨1/2, 0⟩ } : BuildCfg).ledsOk = false := by decide +kernel

theorem test_lumens_refused :
    ({ b5 with lumWarm := 0 } : BuildCfg).lumensOk = false ∧
      ({ b5 with lumCold := -1 } : BuildCfg).lumensOk = false := by decide +kernel

theorem test_supplied_table_refused :
    DutyTable.suppliedOk [(26, ⟨1, 1⟩)] 1000 27 65 = false ∧ DutyTable.suppliedOk [(27, ⟨1001, 1⟩)] 1000 27 65 = false ∧
      DutyTable.suppliedOk [(27, ⟨0, 0⟩)] 1000 27 65 = false ∧
      DutyTable.suppliedOk [(28, ⟨1, 1⟩), (27, ⟨1, 1⟩)] 1000 27 65 = false := by decide +kernel

/-! ### Decoding: every row's word, written out from 30_encoding.md R72 to R76 and R84 -/

/-- V-W1, V-W2: kind 0001, ten zeros, `A` in bit 1, `B` in bit 0. -/
theorem test_decode_enc_edge :
    decode 0b0001000000000000 = .event (.encEdge 0b00) ∧ decode 0b0001000000000001 = .event (.encEdge 0b01) ∧
      decode 0b0001000000000010 = .event (.encEdge 0b10) ∧ decode 0b0001000000000011 = .event (.encEdge 0b11) := by decide

/-- V-W4: kind 0010, `w[0]` 1 for press. -/
theorem test_decode_btn_edge :
    decode 0b0010000000000001 = .event (.btnEdge .press) ∧ decode 0b0010000000000000 = .event (.btnEdge .release) := by
  decide

/-- V-W6: kind 0011, `w[0]` 1 for held. -/
theorem test_decode_deb_tick :
    decode 0b0011000000000000 = .event (.debTick .released) ∧ decode 0b0011000000000001 = .event (.debTick .held) := by
  decide

/-- V-W8. -/
theorem test_decode_scan_tick : decode 0b0100000000000000 = .event .scanTick := by decide

/-- R84: `h b c d q a w s` are 0x68 0x62 0x63 0x64 0x71 0x61 0x77 0x73; V-W10. -/
theorem test_decode_keys :
    decode 0b0101000001101000 = .event .keyH ∧ decode 0b0101000001100010 = .event .keyB ∧
      decode 0b0101000001100011 = .event .keyC ∧ decode 0b0101000001100100 = .event .keyD ∧
      decode 0b0101000001110001 = .event .keyQ ∧ decode 0b0101000001100001 = .event .keyA ∧
      decode 0b0101000001110111 = .event .keyW ∧ decode 0b0101000001110011 = .event .keyS := by decide

/-- V-W11, V-W12. -/
theorem test_decode_key_other :
    decode 0b0101000000000000 = .event (.keyOther 0x00) ∧ decode 0b0101000001000010 = .event (.keyOther 0x42) ∧
      decode 0b0101000011111111 = .event (.keyOther 0xFF) := by decide

/-- V-W3, V-W5, V-W7, V-W9, V-W13 to V-W16. -/
theorem test_decode_reserved :
    decode 0x1004 = .reserved ∧ decode 0x2002 = .reserved ∧ decode 0x3002 = .reserved ∧ decode 0x4001 = .reserved ∧
      decode 0x5100 = .reserved ∧ decode 0x0000 = .reserved ∧ decode 0x6000 = .reserved ∧ decode 0xFFFF = .reserved := by
  decide

theorem test_encode_words :
    encode (.encEdge 0b10) = 0x1002 ∧ encode (.btnEdge .press) = 0x2001 ∧ encode (.debTick .held) = 0x3001 ∧
      encode .scanTick = 0x4000 ∧ encode .keyH = 0x5068 ∧ encode .keyB = 0x5062 ∧ encode .keyC = 0x5063 ∧
      encode .keyD = 0x5064 ∧ encode .keyQ = 0x5071 ∧ encode .keyA = 0x5061 ∧ encode .keyW = 0x5077 ∧
      encode .keyS = 0x5073 ∧ encode (.keyOther 0x42) = 0x5042 := by decide

theorem test_decodeTableWord :
    decodeTableWord 16 0x1003 = some (.encEdge 0b11) ∧ decodeTableWord 16 0x5100 = none := by decide

/-! ### Instructions: one step on a small state -/

/-- V-E2. -/
theorem test_enc_edge_emits :
    after (.encEdge 0b01) (intensityAt 5 23) (fun t =>
      decide (t.encRawIntensity = 24 ∧ t.prevAb = 0b01 ∧ t.intensity = 6 ∧ t.disp = ⟨.blank, .d6⟩) && bothAt t 262 150) =
      true := by decide +kernel

/-- V-E4: a negative quotient. -/
theorem test_enc_edge_emits_off :
    after (.encEdge 0b10) (intensityAt 0 (-3)) (fun t =>
      decide (t.encRawIntensity = -4 ∧ t.intensity = -1 ∧ t.disp = ⟨.blank, .hyphen⟩) && bothAt t 0 0) = true := by
  decide +kernel

/-- V-M2. -/
theorem test_btn_edge_press :
    after (.btnEdge .press)
      { colorAt 44 223 with intensity := 3, encRawIntensity := 7 } (fun t =>
      decide (t.mode = .intensity ∧ t.encRawIntensity = 12 ∧ t.encRawColor = 223 ∧ t.disp = ⟨.blank, .d3⟩ ∧
        t.debState = .pressed)) = true := by decide +kernel

/-- V-M5. -/
theorem test_btn_edge_lost :
    after (.btnEdge .press) (debouncingAt 1) (fun t =>
      decide (t.mode = .intensity ∧ t.debState = .debouncing ∧ t.debCount = 1)) = true := by decide +kernel

/-- V-M9. -/
theorem test_deb_tick_expires :
    after (.debTick .released) (debouncingAt 1) (fun t => decide (t.debState = .idle ∧ t.debCount = 0)) = true := by
  decide +kernel

/-- V-M10. -/
theorem test_deb_tick_rearms :
    after (.debTick .held) (debouncingAt 1) (fun t => decide (t.debState = .debouncing ∧ t.debCount = 2)) = true := by
  decide +kernel

/-- V-T1. -/
theorem test_scan_tick_left :
    after .scanTick { boot0 with disp := ⟨.d4, .d2⟩ } (fun t =>
      decide (t.segOut = 0x66 ∧ t.digSel = 0b01 ∧ t.scanPos = 1)) = true := by decide +kernel

/-- V-T4. -/
theorem test_scan_tick_right :
    after .scanTick { boot0 with disp := ⟨.blank, .hyphen⟩, scanPos := 1 } (fun t =>
      decide (t.segOut = 0x40 ∧ t.digSel = 0b10 ∧ t.scanPos = 0)) = true := by decide +kernel

/-- V-K11. -/
theorem test_key_h : exec .keyH boot0 = .next boot0 := rfl

/-- V-K1. -/
theorem test_key_b :
    after .keyB boot0 (fun t =>
      decide (t.intensity = 6 ∧ t.disp = ⟨.blank, .d6⟩ ∧ t.encRawIntensity = 20) && bothAt t 262 150) = true := by
  decide +kernel

/-- V-K13. -/
theorem test_key_b_wraps :
    after .keyB { colorAt 40 200 with intensity := 9 } (fun t =>
      decide (t.intensity = -1 ∧ t.disp = ⟨.blank, .d5⟩) && bothAt t 0 0) = true := by decide +kernel

/-- V-K4. -/
theorem test_key_c :
    after .keyC boot0 (fun t =>
      decide (t.colorTemp = 39 ∧ t.disp = ⟨.blank, .d5⟩ ∧ t.encRawColor = 200) && bothAt t 181 93) = true := by
  decide +kernel

/-- V-K5. -/
theorem test_key_c_clamps :
    after .keyC (colorAt 27 135) (fun t =>
      decide (t.colorTemp = 27 ∧ t.disp = ⟨.d2, .d7⟩) && bothAt t 250 18) = true := by decide +kernel

/-- V-K7. -/
theorem test_key_d :
    after .keyD (colorAt 40 200) (fun t =>
      decide (t.colorTemp = 41 ∧ t.disp = ⟨.d4, .d1⟩ ∧ t.encRawColor = 200) && bothAt t 168 106) = true := by
  decide +kernel

/-- V-K6. -/
theorem test_key_d_clamps :
    after .keyD (colorAt 65 325) (fun t =>
      decide (t.colorTemp = 65 ∧ t.disp = ⟨.d6, .d5⟩) && bothAt t 18 250) = true := by decide +kernel

/-- V-K8. -/
theorem test_key_q :
    after .keyQ { boot0 with auxColdPct := 95 } (fun t => decide (t.auxColdPct = 100 ∧ t.auxWarmPct = 0)) = true ∧
      after .keyQ { boot0 with auxColdPct := 98 } (fun t => decide (t.auxColdPct = 100)) = true := by decide +kernel

/-- V-K9. -/
theorem test_key_a :
    after .keyA { boot0 with auxColdPct := 5 } (fun t => decide (t.auxColdPct = 0)) = true ∧
      after .keyA { boot0 with auxColdPct := 3 } (fun t => decide (t.auxColdPct = 0)) = true := by decide +kernel

/-- V-K10. -/
theorem test_key_w :
    after .keyW { boot0 with auxWarmPct := 95 } (fun t => decide (t.auxWarmPct = 100 ∧ t.auxColdPct = 0)) = true := by
  decide +kernel

/-- V-K10. -/
theorem test_key_s :
    after .keyS { boot0 with auxWarmPct := 100 } (fun t => decide (t.auxWarmPct = 95 ∧ t.intensity = 5)) = true := by
  decide +kernel

/-- V-K12. -/
theorem test_key_other : exec (.keyOther 0x42) boot0 = .next boot0 := rfl

/-! ### Operations -/

/-- V-S7: the fault, its value, and the order of the checks. -/
theorem test_setLighting_faults :
    (match setLighting .m0 66 10 boot0 with
      | .error f => decide (f = .intensityOutOfRange 10)
      | .ok _ => false) = true ∧
    (match setLighting .m0 26 5 boot0 with
      | .error f => decide (f = .dtIndexOutOfRange 26)
      | .ok _ => false) = true := by decide +kernel

/-- V-S5 and V-S1. -/
theorem test_setLighting_one_module :
    (match setLighting .m1 42 5 boot0 with
      | .error _ => false
      | .ok t => decide (t.pwm = ⟨⟨175, 100⟩, ⟨162, 112⟩⟩)) = true := by decide +kernel

/-- V-S6: the binary32 product of 0.7 and 10 is 7, the exact product of the binary32 values truncates to 6. -/
theorem test_scale_binary32 : scaleBinary32 (7/10) 10 = 7 ∧ scaleExact (7/10) 10 = 6 := by decide +kernel

/-- V-B1: the maximum is taken over the intermediate temperatures, the clamp touches the endpoints. -/
theorem test_build_phases :
    (match buildPhases .exact 1000 30 34 ⟨2200, 0⟩ [(31, ⟨1800, 600⟩), (32, ⟨1400, 1400⟩), (33, ⟨600, 2000⟩)] ⟨0, 2600⟩ with
      | .ok dt => decide (dt = [(30, ⟨1000, 0⟩), (31, ⟨900, 300⟩), (32, ⟨700, 700⟩), (33, ⟨300, 1000⟩), (34, ⟨0, 1000⟩)])
      | .error _ => false) = true := by decide +kernel

/-- V-B3 and V-B4. -/
theorem test_build_phases_low_endpoint :
    (match buildPhases .exact 1000 30 32 ⟨1600, 0⟩ [(31, ⟨1800, 1000⟩)] ⟨0, 2400⟩ with
      | .ok dt => decide (dt = [(30, ⟨888, 0⟩), (31, ⟨1000, 555⟩), (32, ⟨0, 1000⟩)])
      | .error _ => false) = true ∧
    (match buildPhases .exact 1000 30 32 ⟨1600, 0⟩ [(31, ⟨0, 0⟩)] ⟨0, 2400⟩ with
      | .ok _ => false
      | .error e => decide (e = .refusal .configNoScale)) = true := by decide +kernel

/-- V-B5 and V-B6. -/
theorem test_build_reference :
    (match build (cfgB b5) with
      | .ok dt => decide (dt = [(30, ⟨1000, 0⟩), (31, ⟨1000, 780⟩), (32, ⟨0, 1000⟩)])
      | .error _ => false) = true ∧
    (match build (cfgB (buildExample (43/100) 2)) with
      | .ok dt => decide (dt = [(30, ⟨1000, 0⟩), (31, ⟨1000, 97⟩), (32, ⟨0, 597⟩)])
      | .error _ => false) = true := by decide +kernel

/-- V-C3. -/
theorem test_chroma_lookup :
    (match chromaLookup b5 29 with
      | .ok _ => false
      | .error f => decide (f = .chromaIndexOutOfRange 29)) = true ∧
    (match chromaLookup b5 32 with
      | .ok p => decide (p.x = 31/100)
      | .error _ => false) = true := by decide +kernel

/-- Program P3 of Part 3 as words. -/
theorem test_script_words :
    expand exampleCfg 0b00 [.click, .key 0x64, .cw 1, .ccw 1] =
      [0x2001, 0x2000, 0x3000, 0x3000, 0x3000, 0x5064, 0x1001, 0x1000] := by decide +kernel

/-- From any state, reset included, `withFetchWord` makes the next step run the word. -/
theorem test_withFetchWord (s : State) :
    step (s.withFetchWord 16 0x5068) = exec .keyH { s.withFetchWord 16 0x5068 with inputs := s.inputs } := rfl

/-! ### Witnesses: every obligation with hypotheses, each clause met by a concrete state -/

theorem boot0_inv : boot0.Inv := inv_of_inRange (by decide +kernel)

/-- BOOT0 with one word presented. -/
def holding (w : EventWord) : State := { boot0 with inputs := [w] }

theorem witness_DecodeOfEncodeIsTheEvent : (Instr.keyOther 0xFF).wellFormed = true := by decide

theorem witness_StepRunsTheDecodedEvent :
    (holding 0x1003).takesEvents ∧ (holding 0x1003).inputs = [0x1003] ∧ decode 0x1003 = .event (.encEdge 0b11) :=
  ⟨⟨rfl, rfl, rfl⟩, rfl, by decide⟩

/-- The least word of each disjunct (and the greatest of kind 0). -/
theorem witness_ReservedWordRefusesTheRun :
    (∀ w, (holding w).takesEvents ∧ (holding w).inputs = [w]) ∧
      0x0FFF / 0x1000 = 0 ∧ 6 ≤ 0x6000 / 0x1000 ∧ (0x1004 / 0x1000 = 1 ∧ 4 ≤ 0x1004 % 0x1000) ∧
      (0x2002 / 0x1000 = 2 ∧ 2 ≤ 0x2002 % 0x1000) ∧ (0x3002 / 0x1000 = 3 ∧ 2 ≤ 0x3002 % 0x1000) ∧
      (0x4001 / 0x1000 = 4 ∧ 1 ≤ 0x4001 % 0x1000) ∧ (0x5100 / 0x1000 = 5 ∧ 0x100 ≤ 0x5100 % 0x1000) :=
  ⟨fun _ => ⟨⟨rfl, rfl, rfl⟩, rfl⟩, by decide⟩

theorem witness_StoppedRunTakesNoEvent :
    (boot0.raise (.intensityOutOfRange 10)).fault = some (.intensityOutOfRange 10) ∧
      (boot0.refuse .reservedEvent).fault = none ∧ (boot0.refuse .reservedEvent).refused = some .reservedEvent :=
  ⟨rfl, rfl, rfl⟩

theorem witness_ReadyStateTakesEveryEvent :
    (holding 0x5042).takesEvents ∧ (Instr.keyOther 0x42).wellFormed = true ∧
      (holding 0x5042).inputs = [encode (.keyOther 0x42)] := ⟨⟨rfl, rfl, rfl⟩, by decide, rfl⟩

theorem witness_BootHoldsPresentedEvents :
    (State.resetWith exampleCfg).phase = .boot ∧ (State.resetWith exampleCfg).fault = none ∧
      (State.resetWith exampleCfg).refused = none := ⟨rfl, rfl, rfl⟩

theorem witness_NoMotionOnlyLatchesTheReading : (0b00 : BitVec 2) = boot0.prevAb ∧ (0b11 : BitVec 2) = ~~~boot0.prevAb := by
  decide

theorem witness_ReadingIsAlwaysLatched : boot0.Inv := boot0_inv

/-- One microstep off the lower bound of intensity, and one off the upper bound of colour. -/
theorem witness_MotionWithoutEmission :
    (dir boot0.cfg.polarity (transition (intensityAt (-1) (-4)).prevAb 0b01) = 1 ∧
        (intensityAt (-1) (-4)).mode = .intensity ∧ min (max ((-4) + 1) (-1 * 4)) (9 * 4) = (-3 : Int) ∧
        ¬ (intensityAt (-1) (-4)).cfg.divIntensity ∣ -3) ∧
      (dir boot0.cfg.polarity (transition (colorAt 65 325).prevAb 0b10) = -1 ∧ (colorAt 65 325).mode = .color ∧
        min (max (325 + -1) (27 * 5)) (65 * 5) = (324 : Int) ∧ ¬ (colorAt 65 325).cfg.divColor ∣ 324) := by decide +kernel

/-- V-E4 (the lower bound) and V-E6 (the upper bound). -/
theorem witness_EmissionCommitsTheQuotient :
    ((intensityAt 0 (-3)).Inv ∧ dir (intensityAt 0 (-3)).cfg.polarity (transition (intensityAt 0 (-3)).prevAb 0b10) ≠ 0 ∧
        (intensityAt 0 (-3)).mode = .intensity ∧ (-1) * 4 = min (max ((-3) + (-1)) (-1 * 4)) (9 * 4 : Int)) ∧
      ((colorAt 65 325).Inv ∧ dir (colorAt 65 325).cfg.polarity (transition (colorAt 65 325).prevAb 0b01) ≠ 0 ∧
        (colorAt 65 325).mode = .color ∧ 65 * 5 = min (max (325 + 1) (27 * 5)) (65 * 5 : Int)) :=
  ⟨⟨inv_of_inRange (by decide +kernel), by decide +kernel, rfl, by decide⟩,
    ⟨inv_of_inRange (by decide +kernel), by decide +kernel, rfl, by decide⟩⟩

theorem witness_InactiveCounterKeepsItsValue :
    (∃ t, exec (.btnEdge .press) (intensityAt 5 20) = .next t ∧ decide (t.encRawColor = 200) = true) ∧
      (∃ t, exec (.btnEdge .press) { boot0 with encRawColor := 201 } = .next t ∧ decide (t.encRawColor ≠ 201) = true) ∧
      (∃ t, exec (.btnEdge .press) { colorAt 40 200 with encRawIntensity := 7 } = .next t ∧
        decide (t.encRawIntensity ≠ 7) = true) :=
  ⟨next_of_after (by decide +kernel), next_of_after (by decide +kernel), next_of_after (by decide +kernel)⟩

/-- V-E15 and V-E5. -/
theorem witness_AbsorbedStepEmitsTheBound :
    ((colorAt 64 325).Inv ∧ dir (colorAt 64 325).cfg.polarity (transition (colorAt 64 325).prevAb 0b01) = 1 ∧
        (colorAt 64 325).rawOf .color = (modeRange (colorAt 64 325).cfg .color).hi * (modeRange (colorAt 64 325).cfg .color).div) ∧
      ((intensityAt (-1) (-4)).Inv ∧
        dir (intensityAt (-1) (-4)).cfg.polarity (transition (intensityAt (-1) (-4)).prevAb 0b10) = -1 ∧
        (intensityAt (-1) (-4)).rawOf .intensity =
          (modeRange (intensityAt (-1) (-4)).cfg .intensity).lo * (modeRange (intensityAt (-1) (-4)).cfg .intensity).div) :=
  ⟨⟨inv_of_inRange (by decide +kernel), by decide +kernel⟩, ⟨inv_of_inRange (by decide +kernel), by decide +kernel⟩⟩

/-- V-L5: from 40, at most five edges. -/
theorem witness_DivisorClockwiseEdgesEmitOnce :
    (colorAt 40 200).Inv ∧ (colorAt 40 200).cfg.polarity = .plus ∧
      (colorAt 40 200).rawOf .color = 40 * (modeRange (colorAt 40 200).cfg .color).div ∧
      (colorAt 40 200).valueOf .color = 40 ∧ 40 < (modeRange (colorAt 40 200).cfg .color).hi ∧
      ((5 : Nat) : Int) ≤ (modeRange (colorAt 40 200).cfg .color).div :=
  ⟨inv_of_inRange (by decide +kernel), by decide +kernel⟩

/-- V-L11 and V-E9. -/
theorem witness_StepAndItsInverseReturnTheCounter :
    ((colorAt 40 202).Inv ∧ dir (colorAt 40 202).cfg.polarity (transition (colorAt 40 202).prevAb 0b01) = 1 ∧
        27 * 5 ≤ 202 + 1 ∧ 202 + 1 ≤ 65 * 5) ∧
      ((colorAt 65 325).Inv ∧ dir (colorAt 65 325).cfg.polarity (transition (colorAt 65 325).prevAb 0b01) = 1 ∧
        (colorAt 65 325).rawOf .color = (modeRange (colorAt 65 325).cfg .color).hi * (modeRange (colorAt 65 325).cfg .color).div ∧
        (modeRange (colorAt 65 325).cfg .color).lo < (modeRange (colorAt 65 325).cfg .color).hi) :=
  ⟨⟨inv_of_inRange (by decide +kernel), by decide +kernel⟩, ⟨inv_of_inRange (by decide +kernel), by decide +kernel⟩⟩

/-- Program P3, and one step below the upper bound. -/
theorem witness_StaleCounterUndoesTheKeys :
    ((colorAt 40 200).Inv ∧ (colorAt 40 200).cfg.polarity = .plus ∧ (colorAt 40 200).mode = .color ∧
        (colorAt 40 200).encRawColor = 40 * (colorAt 40 200).cfg.divColor ∧ 40 < (colorAt 40 200).cfg.colorMax) ∧
      ((colorAt 64 320).Inv ∧ (colorAt 64 320).encRawColor = 64 * (colorAt 64 320).cfg.divColor ∧
        64 < (colorAt 64 320).cfg.colorMax) :=
  ⟨⟨inv_of_inRange (by decide +kernel), by decide +kernel⟩, ⟨inv_of_inRange (by decide +kernel), by decide +kernel⟩⟩

theorem witness_PressInIdleTogglesTheMode :
    (boot0.debState = .idle ∧ boot0.mode = .intensity) ∧ (colorAt 44 223).debState = .idle ∧ (colorAt 44 223).mode = .color :=
  ⟨⟨rfl, rfl⟩, rfl, rfl⟩

theorem witness_OtherButtonEdgesAreIgnored : pressed0.debState ≠ .idle ∧ (debouncingAt 1).debState ≠ .idle := by decide

theorem witness_DebounceTickInEachState :
    boot0.debState = .idle ∧ pressed0.debState = .pressed ∧
      ((debouncingAt 2).debState = .debouncing ∧ (debouncingAt 2).debCount ≠ 1) ∧
      ((debouncingAt 1).debState = .debouncing ∧ (debouncingAt 1).debCount = 1) := by decide +kernel

theorem witness_DebounceTakesCountPlusOneTicks :
    (pressed0.Inv ∧ pressed0.debState = .pressed ∧ (([.held, .released] : List Level).length : Int) = pressed0.cfg.debCount) ∧
      ((debouncingAt 2).Inv ∧ (debouncingAt 2).debState = .debouncing ∧ (debouncingAt 2).debCount = (debouncingAt 2).cfg.debCount ∧
        (([.held] : List Level).length : Int) + 1 = (debouncingAt 2).cfg.debCount) :=
  ⟨⟨inv_of_inRange (by decide +kernel), by decide +kernel⟩, ⟨inv_of_inRange (by decide +kernel), by decide +kernel⟩⟩

theorem witness_OnePressTogglesOnce :
    boot0.Inv ∧ boot0.debState = .idle ∧
      (∀ e ∈ ([.btnEdge .press, .debTick .released, .btnEdge .release, .debTick .released] : List Instr),
        e = .debTick .released ∨ ∃ b, e = .btnEdge b) ∧
      ((([.btnEdge .press, .debTick .released, .btnEdge .release, .debTick .released] : List Instr).count
        (.debTick .released) : Nat) : Int) = boot0.cfg.debCount :=
  ⟨boot0_inv, rfl, by simp, by decide +kernel⟩

theorem witness_HeldButtonNeverTogglesAgain :
    pressed0.Inv ∧ pressed0.debState ≠ .idle ∧
      (∀ e ∈ ([.debTick .held, .btnEdge .press, .debTick .held] : List Instr), e = .debTick .held ∨ ∃ b, e = .btnEdge b) :=
  ⟨inv_of_inRange (by decide +kernel), by decide, by simp⟩

/-- The rows -1 and 100 of 95_test_vectors.md section 2.8. -/
theorem witness_OutOfRangeValuesRender :
    render (-1) .none = ⟨.blank, .hyphen⟩ ∧ render 100 .suppressBoth = ⟨.d0, .d0⟩ := by decide

/-- The rows 0, 9, 10, 99 of section 2.8. -/
theorem witness_RenderShowsTheDecimalDigits :
    render 0 .suppressBoth = ⟨.blank, .blank⟩ ∧ render 9 .suppressLeading = ⟨.blank, .d9⟩ ∧
      render 10 .suppressBoth = ⟨.d1, .d0⟩ ∧ render 99 .none = ⟨.d9, .d9⟩ := by decide

theorem witness_ScanTickDrivesOneDigit : boot0.scanPos = 0 ∧ ({ boot0 with scanPos := 1 } : State).scanPos = 1 := ⟨rfl, rfl⟩

theorem witness_ScanOutputsBelongToTheScanTick :
    (exec .keyH boot0 = .next boot0 ∧ Instr.keyH ≠ .scanTick) ∧ exec .scanTick boot0 = .next (scanTick boot0) ∧
      (colorAt 41 205).disp = boot0.disp ∧ (colorAt 41 205).scanPos = boot0.scanPos ∧
      (colorAt 41 205).cfg.segMap = boot0.cfg.segMap := ⟨⟨rfl, by decide⟩, rfl, rfl, rfl, rfl⟩

/-- The corners of the index ranges, and of the products `k * d` at the bound. -/
theorem witness_LightingWritesTheScaledEntry :
    boot0.cfg.colorMin = 27 ∧ boot0.cfg.colorMax = 65 ∧ boot0.cfg.brightness[(0 : Int).toNat]? = some (1/64) ∧
      boot0.cfg.brightness[(9 : Int).toNat]? = some 1 ∧ DutyTable.get boot0.dt 27 = ⟨1000, 75⟩ ∧
      DutyTable.get boot0.dt 65 = ⟨75, 1000⟩ ∧ boot0.cfg.scaleFn ≠ .other ∧
      (1 * (2 ^ 24 : Int) ≤ 2 ^ 24 ∧ (2 ^ 24 : Int) * 1 ≤ 2 ^ 24) ∧ boot0.cfg.scaleFn = .binary32 ∧
      ({ exampleCfg with scaleFn := .exactProduct } : Cfg).scaleFn = .exactProduct ∧
      ((2 ^ 23 : Nat) < 2 ^ 24 ∧ (2 ^ 24 - 1 : Nat) < 2 ^ 24 ∧ 2 ^ 23 ≤ (2 ^ 24 - 1 : Nat)) := by decide +kernel

theorem witness_LightingFaultsInOrder :
    (26 : Int) < boot0.cfg.colorMin ∧ boot0.cfg.colorMax < (66 : Int) ∧
      setLighting .m0 26 9 boot0 = .error (.dtIndexOutOfRange 26) ∧
      setLighting .m0 66 10 boot0 = .error (.intensityOutOfRange 10) ∧
      setLighting .m0 66 (-2) boot0 = .error (.intensityOutOfRange (-2)) ∧
      (∃ t, exec .keyB (intensityAt 12 20) = .next t ∧
        decide ((intensityAt 12 20).fault = none ∧ t.fault = some (.intensityOutOfRange 13)) = true) ∧
      step { intensityAt 12 20 with inputs := [0x5062] } = exec .keyB (intensityAt 12 20) :=
  ⟨by decide +kernel, by decide +kernel, rfl, rfl, rfl, next_of_after (by decide +kernel), rfl⟩

theorem witness_ScalingNeverExceedsTheEntry :
    exampleCfg.wellFormed = true ∧ exampleCfg.scaleFn ≠ .other ∧ (1 : Rat) ∈ exampleCfg.brightness ∧
      (0 : Int) ≤ 1000 ∧ 1000 ≤ exampleCfg.pwmMax := by decide +kernel

theorem witness_DutyRisesWithIntensity :
    exampleCfg.wellFormed = true ∧ exampleCfg.scaleFn ≠ .other ∧ (DutyTable.get exampleTable 27).InRange exampleCfg.pwmMax :=
  ⟨by decide +kernel, by decide +kernel, by constructor <;> decide +kernel⟩

theorem witness_LightingChangeDrivesBothModules :
    (∃ t, exec .keyD boot0 = .next t ∧ decide (t.colorTemp ≠ boot0.colorTemp) = true) ∧
      (∃ t, exec (.encEdge 0b01) (intensityAt 5 23) = .next t ∧ decide (t.intensity ≠ 5) = true) :=
  ⟨next_of_after (by decide +kernel), next_of_after (by decide +kernel)⟩

theorem witness_KeyBCyclesBrightness :
    ((intensityAt 9 36).Inv ∧ (intensityAt 9 36).intensity = 9) ∧ ((intensityAt 8 32).Inv ∧ (intensityAt 8 32).intensity ≠ 9) :=
  ⟨⟨inv_of_inRange (by decide +kernel), rfl⟩, inv_of_inRange (by decide +kernel), by decide⟩

theorem witness_KeysCAndDStepTheColour :
    ((colorAt 27 135).Inv ∧ (colorAt 27 135).colorTemp = (colorAt 27 135).cfg.colorMin) ∧
      ((colorAt 65 325).Inv ∧ (colorAt 65 325).colorTemp = (colorAt 65 325).cfg.colorMax) ∧
      (boot0.Inv ∧ boot0.colorTemp ≠ boot0.cfg.colorMin ∧ boot0.colorTemp ≠ boot0.cfg.colorMax) :=
  ⟨⟨inv_of_inRange (by decide +kernel), rfl⟩, ⟨inv_of_inRange (by decide +kernel), rfl⟩, boot0_inv, by decide, by decide⟩

theorem witness_AuxKeysMoveThePercentage : (0 : Int) ≤ boot0.cfg.pwmMax := by decide

/-- V-E2. -/
theorem witness_LightingUpdateForgetsTheDraws :
    (intensityAt 5 23).Inv ∧ dir (intensityAt 5 23).cfg.polarity (transition (intensityAt 5 23).prevAb 0b01) ≠ 0 ∧
      (modeRange (intensityAt 5 23).cfg (intensityAt 5 23).mode).div ∣
        min (max ((intensityAt 5 23).rawOf (intensityAt 5 23).mode +
            dir (intensityAt 5 23).cfg.polarity (transition (intensityAt 5 23).prevAb 0b01))
          ((modeRange (intensityAt 5 23).cfg (intensityAt 5 23).mode).lo *
            (modeRange (intensityAt 5 23).cfg (intensityAt 5 23).mode).div))
          ((modeRange (intensityAt 5 23).cfg (intensityAt 5 23).mode).hi *
            (modeRange (intensityAt 5 23).cfg (intensityAt 5 23).mode).div) :=
  ⟨inv_of_inRange (by decide +kernel), by decide +kernel⟩

theorem witness_WritersByTrigger :
    (exec (.btnEdge .press) boot0 = .next boot0.pressInIdle ∧ (Instr.btnEdge .press).trigger = .edge) ∧
      (exec .scanTick boot0 = .next (scanTick boot0) ∧ Instr.scanTick.trigger = .scan) ∧
      exec (.debTick .held) boot0 = .next (debTick .held boot0) ∧
      (exec .keyH boot0 = .next boot0 ∧ Instr.keyH.trigger = .loop ∧ ∀ l, Instr.keyH ≠ .debTick l) :=
  ⟨⟨rfl, rfl⟩, ⟨rfl, rfl⟩, rfl, rfl, rfl, by simp⟩

theorem witness_ModeChangesOnlyByAPressInIdle :
    step (holding 0x2001) = .next boot0.pressInIdle ∧ boot0.pressInIdle.mode ≠ (holding 0x2001).mode := ⟨rfl, by decide⟩

theorem witness_LightingStateWriters :
    (∃ t, exec .keyB boot0 = .next t ∧ decide (t.intensity ≠ boot0.intensity) = true) ∧
      (∃ t, exec .keyC boot0 = .next t ∧ decide (t.colorTemp ≠ boot0.colorTemp) = true) :=
  ⟨next_of_after (by decide +kernel), next_of_after (by decide +kernel)⟩

theorem witness_DisplayFollowsTheActiveValue :
    (∃ t, exec .keyB boot0 = .next t ∧ decide (t.valueOf t.mode ≠ boot0.valueOf boot0.mode ∧ t.disp ≠ boot0.disp) = true) ∧
      (∃ t, exec (.btnEdge .press) boot0 = .next t ∧ decide (t.mode ≠ boot0.mode) = true) :=
  ⟨next_of_after (by decide +kernel), next_of_after (by decide +kernel)⟩

theorem witness_DutyTableIsReadOnlyAfterBoot :
    (step boot0 = .next boot0 ∧ boot0.phase = .ready) ∧
      step (State.resetWith exampleCfg) = .next (bootBuild (State.resetWith exampleCfg)) ∧
      decide ((bootBuild (State.resetWith exampleCfg)).dt ≠ (State.resetWith exampleCfg).dt) = true :=
  ⟨⟨rfl, rfl⟩, rfl, by decide +kernel⟩

theorem witness_ConfigurationNeverChanges : step boot0 = .next boot0 := rfl

theorem witness_NoEventFaults : boot0.Inv := boot0_inv

theorem witness_StepKeepsTheInvariant :
    ((holding 0x4000).Inv ∧ step (holding 0x4000) = .next (scanTick boot0)) ∧
      (State.resetWith exampleCfg).Inv ∧
        step (State.resetWith exampleCfg) = .next (bootBuild (State.resetWith exampleCfg)) :=
  ⟨⟨inv_of_inRange (by decide +kernel), rfl⟩, inv_of_inRange (by decide +kernel), rfl⟩

theorem witness_ResetMeetsTheInvariant : exampleCfg.wellFormed = true := test_exampleCfg_is_well_formed

theorem witness_ResetValues : exampleCfg.initAb = some 0b00 := rfl

theorem witness_BootReachesReady : exampleCfg.wellFormed = true ∧ build exampleCfg = .ok exampleTable :=
  ⟨test_exampleCfg_is_well_formed, rfl⟩

/-- V-B9 and V-B7. -/
theorem witness_RefusedConfigurationNeverRuns :
    ({ exampleCfg with tWarm := 30, tCold := 31 } : Cfg).wellFormed = false ∧ (cfgB b7).wellFormed = true ∧
      (match build (cfgB b7) with
        | .ok _ => false
        | .error e => decide (e = .refusal .configRawNegative)) = true := by decide +kernel

theorem witness_BuilderNeverFaults : (cfgB b5).wellFormed = true := test_builder_cfg_is_well_formed

/-- V-B3 for a positive maximum, V-B4 for one that is not; the clause over `build` is met by `witness_BuiltTable`. -/
theorem witness_PhasesRescaleThenClampTheEndpoints :
    ((∃ e ∈ ([(31, ⟨1800, 1000⟩)] : List (Int × RawDuty)), e.2.warm = 1800 ∨ e.2.cold = 1800) ∧
        (∀ e ∈ ([(31, ⟨1800, 1000⟩)] : List (Int × RawDuty)), e.2.warm ≤ 1800 ∧ e.2.cold ≤ 1800) ∧
        (∀ e ∈ ([(31, ⟨1800, 1000⟩)] : List (Int × RawDuty)), 30 < e.1 ∧ e.1 < 32) ∧
        (([(31, ⟨1800, 1000⟩)] : List (Int × RawDuty)).map Prod.fst).Nodup) ∧
      ((∃ e ∈ ([(31, ⟨0, 0⟩)] : List (Int × RawDuty)), e.2.warm = 0 ∨ e.2.cold = 0) ∧
        ∀ e ∈ ([(31, ⟨0, 0⟩)] : List (Int × RawDuty)), e.2.warm ≤ 0 ∧ e.2.cold ≤ 0) := by
  norm_num

/-- V-B5: for BuiltTableIsInRange, BuiltTableReachesPwmMax and EndpointsHoldTheirColumnsMaximum. -/
theorem witness_BuiltTable :
    (cfgB b5).wellFormed = true ∧ (cfgB b5).source = .build b5 ∧ b5.numerics = .exact ∧ b5.rawMix = .reference ∧
      (match build (cfgB b5) with
        | .ok _ => true
        | .error _ => false) = true := ⟨test_builder_cfg_is_well_formed, rfl, rfl, rfl, by decide +kernel⟩

/-- A target between the LEDs, one on the cold LED's `x`, one on the warm LED's. -/
theorem witness_ReferenceMixMeetsItsTargets :
    (referenceMix (mixInput 1000 b5 ⟨31, 77/200, 2/5⟩)).isSome = true ∧
      (0 < b5.lumWarm ∧ 0 < b5.lumCold ∧ 0 < b5.ledWarm.y ∧ 0 < b5.ledCold.y) ∧
      (b5.ledCold.x ≤ 77/200 ∧ (77/200 : Rat) < b5.ledWarm.x) ∧ b5.ledCold.x = 31/100 ∧ b5.ledWarm.x = 23/50 := by
  decide +kernel

/-- V-B8 (not finite) and V-B7 (negative); V-B5 and the cold LED's own `x` for the clauses that give a table. -/
theorem witness_BadRawValueRefusesTheConfiguration :
    ((cfgB b8).wellFormed = true ∧ (⟨31, 23/50, 2/5⟩ : ChromaPoint) ∈ b8.chroma ∧
        (rawMix b8 (mixInput 1000 b8 ⟨31, 23/50, 2/5⟩)).isNone = true) ∧
      ((cfgB b7).wellFormed = true ∧ (⟨31, 3/10, 2/5⟩ : ChromaPoint) ∈ b7.chroma ∧
        (match rawMix b7 (mixInput 1000 b7 ⟨31, 3/10, 2/5⟩) with
          | some r => decide (r.warm < 0)
          | none => false) = true) ∧
      ((cfgB b5).wellFormed = true ∧ (cfgB (buildExample (31/100) 1)).wellFormed = true ∧
        (∀ x : Rat, x = 77/200 ∨ x = 31/100 → ∀ p ∈ (buildExample x 1).chroma, 30 < p.t → p.t < 32 →
          b5.ledCold.x ≤ p.x ∧ p.x < b5.ledWarm.x)) ∧
      (match rawMix b5 (mixInput 1000 b5 ⟨31, 77/200, 2/5⟩) with
        | some r => decide (0 ≤ r.warm ∧ 0 < r.cold)
        | none => false) = true := by
  refine ⟨by decide +kernel, by decide +kernel, ⟨by decide +kernel, by decide +kernel, ?_⟩, by decide +kernel⟩
  rintro x (rfl | rfl) <;> decide +kernel

end Sys2Proof.Tests
end

section
/-! PROOFS. Scope (spec/00_scope.md): a configuration that is ill-formed or refused by the builder never runs. First what
`step` answers in BOOT and from a refused state, and the two ways boot step 1 refuses. -/

namespace Sys2Proof.Machine

variable {s : State} {r : Reason}

/-- In BOOT, with neither a fault nor a refusal, a step is the next boot step (R60, R235). -/
theorem step_of_boot (hf : s.fault = none) (hr : s.refused = none) (hp : s.phase = .boot) :
    step s = .next (bootOnce s) := by
  simp only [step, hf, hr, hp]

/-- From a refused state with no fault no step is taken (R234). -/
theorem step_of_refused (hf : s.fault = none) (hr : s.refused = some r) : step s = .refused (.runRefused r) := by
  simp only [step, hf, hr]

/-- Boot step 1 refuses an ill-formed configuration (R9). -/
theorem bootBuild_of_illFormed (hw : s.cfg.wellFormed = false) : bootBuild s = s.refuse .configIllFormed := by
  simp [bootBuild, hw]

/-- Boot step 1 refuses a well-formed configuration for the builder's own reason (R115, R120). -/
theorem bootBuild_of_build_refusal (hw : s.cfg.wellFormed = true) (hb : build s.cfg = .error (.refusal r)) :
    bootBuild s = s.refuse r := by
  simp [bootBuild, hw, hb]

/-- Settles O52: boot step 1 refuses in both cases, and the refused state takes no step. -/
theorem refusedConfigurationNeverRuns : Obligations.RefusedConfigurationNeverRuns := by
  intro c r hbad
  have hbuild : bootBuild (State.resetWith c) = (State.resetWith c).refuse r := by
    rcases hbad with ⟨hill, rfl⟩ | ⟨hwf, hb⟩
    · exact bootBuild_of_illFormed hill
    · exact bootBuild_of_build_refusal hwf hb
  have hfirst : step (State.resetWith c) = .next (bootBuild (State.resetWith c)) := step_of_boot rfl rfl rfl
  exact ⟨hfirst.trans (congrArg _ hbuild), step_of_refused rfl rfl⟩

end Sys2Proof.Machine
end

section
/-! PROOFS. Encoding (spec/30_encoding.md): the directions of the transition codes (R81, R82), and what `ENC_EDGE` does with
a code of direction zero (R83). The facts of the codes are finite, over the 16 pairs of two readings. -/

namespace Sys2Proof.Machine

variable {s : State} {ab : BitVec 2}

/-- R82: the other polarity negates. -/
theorem dir_minus_eq_neg (q : BitVec 4) : dir .minus q = -dir .plus q := rfl

/-- R81 by readings: the clockwise successor gives +1, the counter-clockwise one -1, any other reading 0. -/
theorem dir_plus_transition : ∀ prev ab : BitVec 2,
    dir .plus (transition prev ab) =
      (if ab = nextCw prev then 1 else if ab = nextCcw prev then -1 else 0) := by decide

theorem dir_plus_eq_one_iff : ∀ q : BitVec 4, dir .plus q = 1 ↔ q ∈ [0b0001, 0b0111, 0b1110, 0b1000] := by decide

theorem dir_plus_eq_neg_one_iff : ∀ q : BitVec 4, dir .plus q = -1 ↔ q ∈ [0b0010, 0b1011, 0b1101, 0b0100] := by decide

theorem dir_plus_cases (q : BitVec 4) : dir .plus q = 0 ∨ dir .plus q = 1 ∨ dir .plus q = -1 := by
  unfold dir dirPlus
  split_ifs
  · exact .inr (.inl rfl)
  · exact .inr (.inr rfl)
  · exact .inl rfl

/-- The two successors of a reading leave only a repeat and a double change. -/
theorem not_successor_iff : ∀ prev ab : BitVec 2,
    (ab ≠ nextCw prev ∧ ab ≠ nextCcw prev) ↔ (ab = prev ∨ ab = ~~~prev) := by decide

/-- R83: under either polarity the codes without motion are exactly the repeats and the double changes. -/
theorem dir_transition_eq_zero_iff (p : Polarity) (prev ab : BitVec 2) :
    dir p (transition prev ab) = 0 ↔ ab = prev ∨ ab = ~~~prev := by
  have hplus : dir .plus (transition prev ab) = 0 ↔ ab = prev ∨ ab = ~~~prev := by
    rw [dir_plus_transition, ← not_successor_iff]
    split_ifs with hcw hccw
    · simp [hcw]
    · simp [hccw]
    · simp [hcw, hccw]
  cases p with
  | plus => exact hplus
  | minus => rw [dir_minus_eq_neg, neg_eq_zero, hplus]

theorem exec_encEdge (ab : BitVec 2) (s : State) : exec (.encEdge ab) s = .next (s.commit (encEdge ab s)) := rfl

/-- R153, R154: without motion the edge latches the reading and returns. -/
theorem encEdge_of_dir_eq_zero (hd : dir s.cfg.polarity (transition s.prevAb ab) = 0) :
    encEdge ab s = .ok { s with prevAb := ab } := if_pos hd

/-- Settles O9, from the table by readings and the two sets by codes. -/
theorem directionOfEveryTransition : Obligations.DirectionOfEveryTransition :=
  ⟨dir_plus_transition, dir_minus_eq_neg, dir_plus_eq_one_iff, dir_plus_eq_neg_one_iff, dir_plus_cases⟩

/-- Settles O10: a repeat or a double change has direction zero, so the handler only latches and no fault is raised. -/
theorem noMotionOnlyLatchesTheReading : Obligations.NoMotionOnlyLatchesTheReading := by
  intro s ab hstill
  have hd : dir s.cfg.polarity (transition s.prevAb ab) = 0 := (dir_transition_eq_zero_iff _ _ _).mpr hstill
  rw [exec_encEdge, encEdge_of_dir_eq_zero hd, State.commit]

end Sys2Proof.Machine
end

section
/-! PROOFS. The builder (spec/41_duty_cycle_accumulator.md): what the phases of R114 to R117 store at each temperature, and
the raw values of R111 and R113 that `BUILD` (R119) runs them on. -/

namespace Sys2Proof.Machine

/-! ### The phases on any raw values -/

section Phases

variable {n : BuildNumerics} {pwmMax tWarm tCold : Int} {m : Rat} {w k : RawDuty} {l : List (Int × RawDuty)} {dt : DutyTable}

/-- R114: a value of the list that bounds them all is `M`, which is 0 where that value is negative. -/
theorem scaleMax_eq_max (hatt : ∃ e ∈ l, e.2.warm = m ∨ e.2.cold = m) (hle : ∀ e ∈ l, e.2.warm ≤ m ∧ e.2.cold ≤ m) :
    scaleMax l = max 0 m := by
  obtain ⟨hzero, hbound, hmem⟩ := scaleMax_spec l
  apply le_antisymm
  · rcases hmem with h0 | ⟨e, he, h | h⟩
    · exact le_max_of_le_left h0.le
    · exact le_max_of_le_right (h ▸ (hle e he).1)
    · exact le_max_of_le_right (h ▸ (hle e he).2)
  · obtain ⟨e, he, h | h⟩ := hatt
    · exact max_le hzero (h ▸ (hbound e he).1)
    · exact max_le hzero (h ▸ (hbound e he).2)

/-- A positive `M` is the value of some entry. -/
theorem scaleMax_attained (hm : 0 < scaleMax l) : ∃ e ∈ l, e.2.warm = scaleMax l ∨ e.2.cold = scaleMax l :=
  (scaleMax_spec l).2.2.resolve_left hm.ne'

/-- What phase 3 stores of one raw pair (R116). -/
def rescaledDuty (n : BuildNumerics) (pwmMax : Int) (m : Rat) (r : RawDuty) : Duty :=
  ⟨rescaled n pwmMax m r.warm, rescaled n pwmMax m r.cold⟩

/-- Both channels of an entry cut to `PWM_MAX` (R117). -/
def clampedDuty (pwmMax : Int) (d : Duty) : Duty := ⟨min d.warm pwmMax, min d.cold pwmMax⟩

theorem mem_rescaleTable {t : Int} {r : RawDuty} (h : (t, r) ∈ l) :
    (t, rescaledDuty n pwmMax m r) ∈ rescaleTable n pwmMax m l :=
  List.mem_map.2 ⟨(t, r), h, rfl⟩

theorem mem_clampEndpoints_of_endpoint {es : List (Int × Duty)} {t : Int} {d : Duty} (h : (t, d) ∈ es)
    (ht : t = tWarm ∨ t = tCold) : (t, clampedDuty pwmMax d) ∈ clampEndpoints pwmMax tWarm tCold es :=
  List.mem_map.2 ⟨(t, d), h, if_pos ht⟩

theorem mem_clampEndpoints_of_intermediate {es : List (Int × Duty)} {t : Int} {d : Duty} (h : (t, d) ∈ es)
    (hw : tWarm < t) (hk : t < tCold) : (t, d) ∈ clampEndpoints pwmMax tWarm tCold es :=
  List.mem_map.2 ⟨(t, d), h, if_neg (not_or.2 ⟨hw.ne', hk.ne⟩)⟩

/-- Phases 3 and 4 keep every entry's temperature. -/
theorem map_fst_clampEndpoints_rescaleTable :
    (clampEndpoints pwmMax tWarm tCold (rescaleTable n pwmMax m l)).map Prod.fst = l.map Prod.fst := by
  simp only [clampEndpoints, rescaleTable, List.map_map]
  refine List.map_congr_left fun e _ => ?_
  simp only [Function.comp_apply]
  split <;> rfl

/-- The temperatures of the stored entries are distinct: the intermediate ones lie between the endpoints. -/
theorem nodup_stored_temperatures (hlt : tWarm < tCold) (hmid : ∀ e ∈ l, tWarm < e.1 ∧ e.1 < tCold)
    (hn : (l.map Prod.fst).Nodup) : ((clampEndpoints pwmMax tWarm tCold
      (rescaleTable n pwmMax m ((tWarm, w) :: (l ++ [(tCold, k)])))).map Prod.fst).Nodup := by
  have hwarm : tWarm ∉ l.map Prod.fst := fun h => by
    obtain ⟨e, he, heq⟩ := List.mem_map.1 h
    exact (hmid e he).1.ne' heq
  have hcold : tCold ∉ l.map Prod.fst := fun h => by
    obtain ⟨e, he, heq⟩ := List.mem_map.1 h
    exact (hmid e he).2.ne heq
  rw [map_fst_clampEndpoints_rescaleTable, List.map_cons, List.map_append, List.map_singleton, List.nodup_cons,
    List.mem_append, List.mem_singleton]
  exact ⟨not_or.2 ⟨hwarm, hlt.ne⟩, hn.append (List.nodup_singleton _) (List.disjoint_singleton.2 hcold)⟩

/-- R115: no positive intermediate value, no scale. -/
theorem buildPhases_of_not_pos (hm : scaleMax l ≤ 0) :
    buildPhases n pwmMax tWarm tCold w l k = .error (.refusal .configNoScale) := if_pos hm

/-- With a positive `M` the phases give the table of the rescaled and clamped entries. -/
theorem buildPhases_of_pos (hm : 0 < scaleMax l) :
    buildPhases n pwmMax tWarm tCold w l k = .ok (DutyTable.ofEntries (clampEndpoints pwmMax tWarm tCold
      (rescaleTable n pwmMax (scaleMax l) ((tWarm, w) :: (l ++ [(tCold, k)]))))) := if_neg hm.not_ge

/-- Where the phases give a table, `M` is positive. -/
theorem scaleMax_pos_of_buildPhases_ok (h : buildPhases n pwmMax tWarm tCold w l k = .ok dt) : 0 < scaleMax l := by
  by_contra hm
  rw [buildPhases_of_not_pos (not_lt.1 hm)] at h
  cases h

/-- R116, R117: the endpoints hold their rescaled and clamped values, every intermediate temperature its rescaled one. -/
theorem get_of_buildPhases_ok (h : buildPhases n pwmMax tWarm tCold w l k = .ok dt)
    (hmid : ∀ e ∈ l, tWarm < e.1 ∧ e.1 < tCold) (hn : (l.map Prod.fst).Nodup) :
    DutyTable.get dt tWarm = clampedDuty pwmMax (rescaledDuty n pwmMax (scaleMax l) w) ∧
      DutyTable.get dt tCold = clampedDuty pwmMax (rescaledDuty n pwmMax (scaleMax l) k) ∧
      ∀ e ∈ l, DutyTable.get dt e.1 = rescaledDuty n pwmMax (scaleMax l) e.2 := by
  have hm := scaleMax_pos_of_buildPhases_ok h
  obtain rfl := Except.ok.inj ((buildPhases_of_pos hm).symm.trans h)
  have hlt : tWarm < tCold := by
    obtain ⟨e, he, -⟩ := scaleMax_attained hm
    exact (hmid e he).1.trans (hmid e he).2
  refine ⟨?_, ?_, fun e he => ?_⟩ <;> apply DutyTable.get_ofEntries_of_mem (nodup_stored_temperatures hlt hmid hn)
  · exact mem_clampEndpoints_of_endpoint (mem_rescaleTable (by simp)) (.inl rfl)
  · exact mem_clampEndpoints_of_endpoint (mem_rescaleTable (by simp)) (.inr rfl)
  · exact mem_clampEndpoints_of_intermediate (mem_rescaleTable (by simp [he])) (hmid e he).1 (hmid e he).2

end Phases

/-! ### The raw values `BUILD` runs the phases on -/

section RawValues

variable {c : Cfg} {b : BuildCfg} {dt : DutyTable} {pwmMax : Int}

/-- What well-formedness says of a configuration that builds its table (R8, R101). -/
theorem wellFormed_build (hwf : c.wellFormed = true) (hs : c.source = .build b) :
    1 ≤ c.pwmMax ∧ b.contiguousOk = true ∧ b.chromaLo ≤ c.tWarm ∧ c.tCold ≤ b.chromaHi := by
  simp only [Cfg.wellFormed, Cfg.sourceOk, hs, Cfg.pwmMaxOk, BuildCfg.coversOk, Bool.and_eq_true, decide_eq_true_eq]
    at hwf
  tauto

/-- R101: a contiguous table has one point per temperature. -/
theorem point_unique (hc : b.contiguousOk = true) {p q : ChromaPoint} (hp : p ∈ b.chroma) (hq : q ∈ b.chroma)
    (h : p.t = q.t) : p = q := by
  have hkeys : (b.chroma.map (·.t)).Nodup := of_decide_eq_true hc ▸ temperatures_nodup _ _
  exact List.inj_on_of_nodup_map hkeys hp hq h

/-- The raw pair of a temperature: the mix at its point (R111), and a pair of zeros where there is none. -/
def intermediateRaw (pwmMax : Int) (b : BuildCfg) (t : Int) : RawDuty :=
  match chromaLookup b t with
  | .ok p => (rawMix b (mixInput pwmMax b p)).getD ⟨0, 0⟩
  | .error _ => ⟨0, 0⟩

/-- Where the mix at a point has a value, it is the raw pair of the point's temperature. -/
theorem intermediateRaw_of_mix (hc : b.contiguousOk = true) {p : ChromaPoint} (hp : p ∈ b.chroma) {r : RawDuty}
    (hr : rawMix b (mixInput pwmMax b p) = some r) : intermediateRaw pwmMax b p.t = r := by
  have ht : p.t ∈ temperatures b.chromaLo b.chromaHi := of_decide_eq_true hc ▸ List.mem_map_of_mem hp
  obtain ⟨hlo, hhi⟩ := mem_temperatures.1 ht
  obtain ⟨q, hlook, hq, hqt⟩ := chromaLookup_inRange hc hlo hhi
  obtain rfl := point_unique hc hq hp hqt
  simp [intermediateRaw, hlook, hr]

/-- The list `l` holds, once for each intermediate temperature, the mix at that temperature's point, which has a value. -/
structure IsIntermediates (c : Cfg) (b : BuildCfg) (l : List (Int × RawDuty)) : Prop where
  temperatures_eq : l.map Prod.fst = temperatures (c.tWarm + 1) (c.tCold - 1)
  mix_eq : ∀ e ∈ l, ∃ p ∈ b.chroma, p.t = e.1 ∧ rawMix b (mixInput c.pwmMax b p) = some e.2

namespace IsIntermediates

variable {l : List (Int × RawDuty)}

theorem nodup (h : IsIntermediates c b l) : (l.map Prod.fst).Nodup := h.temperatures_eq ▸ temperatures_nodup _ _

theorem between (h : IsIntermediates c b l) : ∀ e ∈ l, c.tWarm < e.1 ∧ e.1 < c.tCold := by
  intro e he
  have ht := mem_temperatures.1 (h.temperatures_eq ▸ List.mem_map_of_mem he)
  omega

theorem eq_intermediateRaw (h : IsIntermediates c b l) (hc : b.contiguousOk = true) :
    ∀ e ∈ l, intermediateRaw c.pwmMax b e.1 = e.2 := by
  intro e he
  obtain ⟨p, hp, hpt, hr⟩ := h.mix_eq e he
  exact hpt ▸ intermediateRaw_of_mix hc hp hr

theorem mem (h : IsIntermediates c b l) (hc : b.contiguousOk = true) {t : Int} (hw : c.tWarm < t) (hk : t < c.tCold) :
    (t, intermediateRaw c.pwmMax b t) ∈ l := by
  have ht : t ∈ l.map Prod.fst := h.temperatures_eq ▸ mem_temperatures.2 (by omega)
  obtain ⟨e, he, rfl⟩ := List.mem_map.1 ht
  exact h.eq_intermediateRaw hc e he ▸ he

/-- At every point of an intermediate temperature the mix is that temperature's raw pair. -/
theorem rawMix_eq (h : IsIntermediates c b l) (hc : b.contiguousOk = true) {p : ChromaPoint} (hp : p ∈ b.chroma)
    (hw : c.tWarm < p.t) (hk : p.t < c.tCold) :
    rawMix b (mixInput c.pwmMax b p) = some (intermediateRaw c.pwmMax b p.t) := by
  obtain ⟨q, hq, hqt, hr⟩ := h.mix_eq _ (h.mem hc hw hk)
  obtain rfl := point_unique hc hq hp hqt
  exact hr

end IsIntermediates

/-- R119: a configuration whose table is built runs the phases on the intermediate mixes and on one raw value for each
endpoint's own channel. -/
theorem build_ok (hwf : c.wellFormed = true) (hs : c.source = .build b) (hb : build c = .ok dt) :
    ∃ l w k, IsIntermediates c b l ∧ endpointRaw c.pwmMax b b.lumWarm = some w ∧
      endpointRaw c.pwmMax b b.lumCold = some k ∧ 0 ≤ w ∧ 0 ≤ k ∧
      buildPhases b.numerics c.pwmMax c.tWarm c.tCold ⟨w, 0⟩ l ⟨0, k⟩ = .ok dt := by
  obtain ⟨-, hc, hlo, hhi⟩ := wellFormed_build hwf hs
  obtain ⟨r, hr, htemps, hmix⟩ := rawIntermediates_inRange hc c.pwmMax (temperatures (c.tWarm + 1) (c.tCold - 1))
    fun t ht => by have := mem_temperatures.1 ht; omega
  simp only [build, hs, buildTable, hr] at hb
  split at hb
  next l w k hl hw hk =>
    split at hb
    · cases hb
    next hneg =>
      obtain ⟨hkeys, hmem⟩ := checkedRaw_some hl
      refine ⟨l, w, k, ⟨hkeys.trans htemps, fun e he => ?_⟩, hw, hk,
        not_lt.1 fun h => hneg (.inl h), not_lt.1 fun h => hneg (.inr h), hb⟩
      obtain ⟨p, hp, hpt, hpr⟩ := hmix _ (hmem e he).2.2
      exact ⟨p, hp, hpt, hpr.symm⟩
  next => cases hb

/-- R113 under exact arithmetic. -/
theorem endpointRaw_exact (hn : b.numerics = .exact) {lum v : Rat} (h : endpointRaw pwmMax b lum = some v) :
    v = pwmMax * (b.lumWarm + b.lumCold) / lum := by
  simp only [endpointRaw, hn] at h
  split at h
  · cases h
  · exact (Option.some.inj h).symm

/-- R112, R116: the reference definition, where the configuration takes it, under exact arithmetic. -/
theorem rawMix_reference_exact (hn : b.numerics = .exact) (hr : b.rawMix = .reference) (i : MixInput) :
    rawMix b i = referenceMix i := by
  simp [rawMix, hn, hr]

end RawValues

/-- A channel whose raw value is zero is stored as zero (R113, R116, R117). -/
theorem min_rescaled_zero {pwmMax : Int} (hp : 1 ≤ pwmMax) (m : Rat) : min (rescaled .exact pwmMax m 0) pwmMax = 0 := by
  have hzero : rescaled .exact pwmMax m 0 = 0 := by simp [rescaled, trunc]
  omega

/-- Settles O54: `M` is the intermediate maximum, the table is read entry by entry, and `BUILD` runs the phases on the raw
values of `build_ok`. -/
theorem phasesRescaleThenClampTheEndpoints : Obligations.PhasesRescaleThenClampTheEndpoints := by
  constructor
  · intro pwmMax tWarm tCold w k l m hatt hle hmid hn
    have hM := scaleMax_eq_max hatt hle
    constructor
    · intro hm
      exact buildPhases_of_not_pos (hM.trans (max_eq_left hm)).le
    · intro hm
      obtain rfl : scaleMax l = m := hM.trans (max_eq_right hm.le)
      obtain ⟨dt, hok⟩ : ∃ dt, buildPhases .exact pwmMax tWarm tCold w l k = .ok dt := ⟨_, buildPhases_of_pos hm⟩
      exact ⟨dt, hok, get_of_buildPhases_ok hok hmid hn⟩
  · intro c b dt hwf hs hn hb
    obtain ⟨hp, hc, -, -⟩ := wellFormed_build hwf hs
    obtain ⟨l, w, k, hl, hw, hk, -, -, hok⟩ := build_ok hwf hs hb
    rw [hn] at hok
    have hm := scaleMax_pos_of_buildPhases_ok hok
    obtain ⟨hgetWarm, hgetCold, hget⟩ := get_of_buildPhases_ok hok hl.between hl.nodup
    refine ⟨intermediateRaw c.pwmMax b, scaleMax l, hm, fun p hpm h1 h2 => ?_, ?_, fun t h1 h2 => ?_, ?_, ?_⟩
    · have hmix := hl.rawMix_eq hc hpm h1 h2
      exact ⟨hmix, fun href => (rawMix_reference_exact hn href _).symm.trans hmix⟩
    · obtain ⟨e, he, hatt⟩ := scaleMax_attained hm
      obtain ⟨h1, h2⟩ := hl.between e he
      exact ⟨e.1, h1, h2, (hl.eq_intermediateRaw hc e he).symm ▸ hatt⟩
    · have hmem := hl.mem hc h1 h2
      obtain ⟨p, hpm, hpt, -⟩ := hl.mix_eq _ hmem
      obtain ⟨hwarm, hcold⟩ := (scaleMax_spec l).2.1 _ hmem
      exact ⟨⟨p, hpm, hpt⟩, hwarm, hcold, hget _ hmem⟩
    · rw [hgetWarm, ← endpointRaw_exact hn hw]
      exact congrArg (Duty.mk _) (min_rescaled_zero hp _)
    · rw [hgetCold, ← endpointRaw_exact hn hk]
      exact congrArg (Duty.mk · _) (min_rescaled_zero hp _)

end Sys2Proof.Machine
end

section
/-! PROOFS. The output driver (spec/42_brightness_curve_scaler.md): what `setLighting` writes with the intensity off
(R136). -/

namespace Sys2Proof.Machine

variable {s : State}

/-- R136: with the intensity off `setLighting` writes a pair of zeros whatever the module and the colour temperature. -/
theorem setLighting_off (m : Module) (ct : Int) : setLighting m ct (-1) s = .ok (s.pwmPair m Duty.zero) :=
  setLighting_ok_iff.2 ⟨.inl rfl, by simp [lightDuty]⟩

theorem pwmPair_m0_eq (d : Duty) : s.pwmPair .m0 d = { s with pwm := ⟨d, s.pwm.m1⟩ } := rfl

theorem pwmPair_m1_eq (d : Duty) : s.pwmPair .m1 d = { s with pwm := ⟨s.pwm.m0, d⟩ } := rfl

/-- Settles O30: `setLighting` with the intensity off writes a pair of zeros, and a pair touches its own module only. -/
theorem lightingOffWritesZero : Obligations.LightingOffWritesZero := by
  intro s ct
  constructor
  · rw [setLighting_off, pwmPair_m0_eq, Duty.zero]
  · rw [setLighting_off, pwmPair_m1_eq, Duty.zero]

end Sys2Proof.Machine
end

section
/-! PROOFS. The quadrature encoder decoder (spec/43_quadrature_encoder_decoder.md): an edge with motion, its two outcomes by
the divisibility of the clamped counter (R156), and what an emission leaves where the values are in range (R157). -/

namespace Sys2Proof.Machine

variable {s : State} {ab : BitVec 2} {d v : Int}

/-! ### Ranges -/

/-- Each mode's value in the range R152 gives the mode. -/
def State.ValuesInRange (s : State) : Prop :=
  ∀ m, (modeRange s.cfg m).lo ≤ s.valueOf m ∧ s.valueOf m ≤ (modeRange s.cfg m).hi

theorem State.Inv.valuesInRange (h : s.Inv) : s.ValuesInRange
  | .intensity => ⟨h.intensityLo, h.intensityHi⟩
  | .color => ⟨h.colorLo, h.colorHi⟩

theorem State.ValuesInRange.setValue (h : s.ValuesInRange) {m : Mode} (hlo : (modeRange s.cfg m).lo ≤ v)
    (hhi : v ≤ (modeRange s.cfg m).hi) : (s.setValue m v).ValuesInRange := by
  cases m
  case intensity => exact fun | .intensity => ⟨hlo, hhi⟩ | .color => h .color
  case color => exact fun | .intensity => h .intensity | .color => ⟨hlo, hhi⟩

theorem State.ValuesInRange.setRaw (h : s.ValuesInRange) {m : Mode} {raw : Int} : (s.setRaw m raw).ValuesInRange := by
  intro n
  simpa using h n

/-- R8: a well-formed configuration's divisors are at least 1. -/
theorem modeRange_div_pos {c : Cfg} (hwf : c.wellFormed = true) (m : Mode) : 0 < (modeRange c m).div := by
  simp only [Cfg.wellFormed, Cfg.divisorsOk, Bool.and_eq_true, decide_eq_true_eq] at hwf
  cases m <;> simp only [modeRange] <;> omega

/-- A value whose multiple is the clamped counter (R155) is in the mode's range. -/
theorem quotient_mem {r : ModeRange} {raw : Int} (hdiv : 0 < r.div) (hr : r.lo ≤ r.hi)
    (hv : rawAfter r raw d = v * r.div) : r.lo ≤ v ∧ v ≤ r.hi := by
  obtain ⟨hlo, hhi⟩ := clamp_mem (v := raw + d) (Int.mul_le_mul_of_nonneg_right hr hdiv.le)
  rw [rawAfter] at hv
  exact ⟨le_of_mul_le_mul_right (hv ▸ hlo) hdiv, le_of_mul_le_mul_right (hv ▸ hhi) hdiv⟩

/-! ### What the handler leaves -/

/-- The reading latched (R153). -/
def State.latch (s : State) (ab : BitVec 2) : State := { s with prevAb := ab }

@[simp] theorem State.latch_prevAb : (s.latch ab).prevAb = ab := rfl

/-- The state an emission of `v` leaves: the active counter at `v` divisors and the effects of R157. -/
def State.emitted (s : State) (v : Int) : State :=
  { (s.setRaw s.mode (v * (modeRange s.cfg s.mode).div)).setValue s.mode v with
    disp := render v (policyOf s.mode)
    pwm := Pwm.both (lightDuty s.cfg s.dt (s.setValue s.mode v).colorTemp (s.setValue s.mode v).intensity) }

@[simp] theorem State.emitted_prevAb : (s.emitted v).prevAb = s.prevAb := by simp [State.emitted]

theorem State.emitted_latch_of_intensity (hm : s.mode = .intensity) : (s.latch ab).emitted v = { s with
    prevAb := ab
    encRawIntensity := v * s.cfg.divIntensity
    intensity := v
    disp := render v .suppressLeading
    pwm := Pwm.both (lightDuty s.cfg s.dt s.colorTemp v) } := by
  simp [State.emitted, State.latch, hm, modeRange, policyOf]

theorem State.emitted_latch_of_color (hm : s.mode = .color) : (s.latch ab).emitted v = { s with
    prevAb := ab
    encRawColor := v * s.cfg.divColor
    colorTemp := v
    disp := render v .none
    pwm := Pwm.both (lightDuty s.cfg s.dt v s.intensity) } := by
  simp [State.emitted, State.latch, hm, modeRange, policyOf]

/-! ### The handler -/

/-- R152: with motion the edge latches the reading and moves the counter. -/
theorem encEdge_of_dir_ne_zero (hd : dir s.cfg.polarity (transition s.prevAb ab) ≠ 0) :
    encEdge ab s = encMove (dir s.cfg.polarity (transition s.prevAb ab)) (s.latch ab) := if_neg hd

/-- R156: a clamped counter that is no multiple of the divisor is stored, and nothing is emitted. -/
theorem encMove_of_not_dvd
    (hraw : ¬ (modeRange s.cfg s.mode).div ∣ rawAfter (modeRange s.cfg s.mode) (s.rawOf s.mode) d) :
    encMove d s = .ok (s.setRaw s.mode (rawAfter (modeRange s.cfg s.mode) (s.rawOf s.mode) d)) :=
  if_neg (mt Int.dvd_of_emod_eq_zero hraw)

/-- R156: a clamped counter of `v` divisors is stored, and `v` is emitted. -/
theorem encMove_of_eq_mul (hdiv : (modeRange s.cfg s.mode).div ≠ 0)
    (hraw : rawAfter (modeRange s.cfg s.mode) (s.rawOf s.mode) d = v * (modeRange s.cfg s.mode).div) :
    encMove d s = emit v (s.setRaw s.mode (v * (modeRange s.cfg s.mode).div)) := by
  simp [encMove, hraw, Int.mul_ediv_cancel _ hdiv]

/-- R157: from values in range, the emission of a value in range raises no fault. -/
theorem emit_inRange (hs : s.ValuesInRange) (hlo : (modeRange s.cfg s.mode).lo ≤ v) (hhi : v ≤ (modeRange s.cfg s.mode).hi) :
    emit v s = .ok { s.setValue s.mode v with
      disp := render v (policyOf s.mode)
      pwm := Pwm.both (lightDuty s.cfg s.dt (s.setValue s.mode v).colorTemp (s.setValue s.mode v).intensity) } := by
  have hvals := hs.setValue hlo hhi
  obtain ⟨hintensityLo, hintensityHi⟩ := hvals .intensity
  obtain ⟨hcolorLo, hcolorHi⟩ := hvals .color
  obtain ⟨t, ht⟩ : ∃ t, emit v s = .ok t := ⟨_, driveBoth_inRange hintensityLo hintensityHi hcolorLo hcolorHi⟩
  rw [ht, emit_ok ht]

/-- R155 to R157: where the clamped counter is `v` divisors, `v` is in the mode's range and the handler emits it. -/
theorem encMove_emits (hs : s.ValuesInRange) (hdiv : 0 < (modeRange s.cfg s.mode).div)
    (hraw : rawAfter (modeRange s.cfg s.mode) (s.rawOf s.mode) d = v * (modeRange s.cfg s.mode).div) :
    ((modeRange s.cfg s.mode).lo ≤ v ∧ v ≤ (modeRange s.cfg s.mode).hi) ∧ encMove d s = .ok (s.emitted v) := by
  obtain ⟨hlo, hhi⟩ := quotient_mem hdiv ((hs s.mode).1.trans (hs s.mode).2) hraw
  refine ⟨⟨hlo, hhi⟩, ?_⟩
  rw [encMove_of_eq_mul hdiv.ne' hraw, emit_inRange hs.setRaw (by simpa using hlo) (by simpa using hhi)]
  simp [State.emitted]

/-- On values in range the motion raises no fault and does not write the latched reading. -/
theorem encMove_keeps_prevAb (hs : s.ValuesInRange) (hdiv : 0 < (modeRange s.cfg s.mode).div) :
    ∃ t, encMove d s = .ok t ∧ t.prevAb = s.prevAb := by
  by_cases hdvd : (modeRange s.cfg s.mode).div ∣ rawAfter (modeRange s.cfg s.mode) (s.rawOf s.mode) d
  · obtain ⟨v, hv⟩ := hdvd
    obtain ⟨-, hok⟩ := encMove_emits hs hdiv (hv.trans (Int.mul_comm _ _))
    exact ⟨_, hok, State.emitted_prevAb⟩
  · exact ⟨_, encMove_of_not_dvd hdvd, by simp⟩

/-- R152 to R157: from a state in range, an edge whose clamped counter is `v` divisors latches the reading and emits `v`. -/
theorem encEdge_emits {m : Mode} (hs : s.Inv) (hd : dir s.cfg.polarity (transition s.prevAb ab) ≠ 0) (hm : s.mode = m)
    (hraw : rawAfter (modeRange s.cfg m) (s.rawOf m) (dir s.cfg.polarity (transition s.prevAb ab)) =
      v * (modeRange s.cfg m).div) :
    ((modeRange s.cfg m).lo ≤ v ∧ v ≤ (modeRange s.cfg m).hi) ∧ encEdge ab s = .ok ((s.latch ab).emitted v) := by
  subst hm
  rw [encEdge_of_dir_ne_zero hd]
  exact encMove_emits (s := s.latch ab) hs.valuesInRange (modeRange_div_pos hs.cfgWf _) hraw

/-- R153: from a state in range the handler raises no fault and leaves the current reading, with and without motion. -/
theorem encEdge_latches (hs : s.Inv) (ab : BitVec 2) : ∃ t, encEdge ab s = .ok t ∧ t.prevAb = ab := by
  by_cases hd : dir s.cfg.polarity (transition s.prevAb ab) = 0
  · exact ⟨_, encEdge_of_dir_eq_zero hd, rfl⟩
  · rw [encEdge_of_dir_ne_zero hd]
    exact encMove_keeps_prevAb (s := s.latch ab) hs.valuesInRange (modeRange_div_pos hs.cfgWf _)

/-- Settles O13: the handler emits the quotient, and the emission is read in each mode. -/
theorem emissionCommitsTheQuotient : Obligations.EmissionCommitsTheQuotient := by
  intro s ab v hs hd
  constructor
  · intro hm hv
    obtain ⟨⟨hlo, hhi⟩, hok⟩ := encEdge_emits hs hd hm hv.symm
    exact ⟨hlo, hhi, by rw [exec_encEdge, hok, State.commit_ok, State.emitted_latch_of_intensity hm]⟩
  · intro hm hv
    obtain ⟨⟨hlo, hhi⟩, hok⟩ := encEdge_emits hs hd hm hv.symm
    exact ⟨hlo, hhi, by rw [exec_encEdge, hok, State.commit_ok, State.emitted_latch_of_color hm]⟩

/-- Settles O11: from a state in range no fault drops the latched reading. -/
theorem readingIsAlwaysLatched : Obligations.ReadingIsAlwaysLatched := by
  intro s ab hs
  obtain ⟨t, ht, hab⟩ := encEdge_latches hs ab
  exact ⟨t, by rw [exec_encEdge, ht, State.commit_ok], hab⟩

end Sys2Proof.Machine
end

section
/-! PROOFS. The mode and debounce state machine (spec/44_mode_debounce_fsm.md): the button edges that do nothing (R173,
R174), and the debounce tick in each state of the machine (R176 to R178). -/

namespace Sys2Proof.Machine

variable {s : State} {l : Level} {reload n : Int} {d : DebState}

/-! ### The button edge -/

theorem exec_btnEdge (e : Edge) (s : State) : exec (.btnEdge e) s = .next (btnEdge e s) := rfl

@[simp] theorem btnEdge_release (s : State) : btnEdge .release s = s := rfl

/-- R173: outside IDLE a press is ignored. -/
theorem btnEdge_press_of_ne_idle (h : s.debState ≠ .idle) : btnEdge .press s = s := if_pos h

/-- Settles O20: the handler answers its own state in each of the two cases. -/
theorem otherButtonEdgesAreIgnored : Obligations.OtherButtonEdgesAreIgnored := by
  intro s
  constructor
  · intro hbusy
    rw [exec_btnEdge, btnEdge_press_of_ne_idle hbusy]
  · rw [exec_btnEdge, btnEdge_release]

/-! ### The debounce transition -/

/-- R178: before the expiry tick the countdown loses one, whatever the level. -/
theorem debNext_debouncing_of_ne_one (hn : n ≠ 1) : debNext reload l .debouncing n = (.debouncing, n - 1) :=
  if_neg (sub_ne_zero.mpr hn)

/-- R178: the expiry tick with the button released returns to IDLE. -/
@[simp] theorem debNext_released_of_expiry : debNext reload .released .debouncing 1 = (.idle, 0) := rfl

/-- R178: the expiry tick with the button held re-arms the countdown. -/
@[simp] theorem debNext_held_of_expiry : debNext reload .held .debouncing 1 = (.debouncing, reload) := rfl

/-! ### The debounce tick -/

theorem exec_debTick (l : Level) (s : State) : exec (.debTick l) s = .next (debTick l s) := rfl

/-- R175: a tick writes the debounce state and the countdown that the transition gives, and nothing else. -/
theorem debTick_of_debNext (h : debNext s.cfg.debCount l s.debState s.debCount = (d, n)) :
    debTick l s = { s with debState := d, debCount := n } := by
  rw [debTick, h]

/-- R176: a tick in IDLE changes nothing. -/
theorem debTick_of_idle (hd : s.debState = .idle) : debTick l s = s := by
  have hnext : debNext s.cfg.debCount l s.debState s.debCount = (s.debState, s.debCount) := by rw [hd, debNext]
  exact debTick_of_debNext hnext

/-- R177: a tick in PRESSED starts the countdown. -/
theorem debTick_of_pressed (hd : s.debState = .pressed) :
    debTick l s = { s with debState := .debouncing, debCount := s.cfg.debCount } :=
  debTick_of_debNext (by rw [hd, debNext])

/-- R178: a tick in DEBOUNCING that is not the expiry tick only counts down. -/
theorem debTick_of_debouncing_of_ne_one (hd : s.debState = .debouncing) (hn : s.debCount ≠ 1) :
    debTick l s = { s with debCount := s.debCount - 1 } := by
  rw [debTick_of_debNext (by rw [hd, debNext_debouncing_of_ne_one hn]), ← hd]

/-- R178: the expiry tick with the button released ends the debouncing. -/
theorem debTick_released_of_expiry (hd : s.debState = .debouncing) (hn : s.debCount = 1) :
    debTick .released s = { s with debState := .idle, debCount := 0 } :=
  debTick_of_debNext (by rw [hd, hn, debNext_released_of_expiry])

/-- R178: the expiry tick with the button held stays in DEBOUNCING with the countdown re-armed. -/
theorem debTick_held_of_expiry (hd : s.debState = .debouncing) (hn : s.debCount = 1) :
    debTick .held s = { s with debCount := s.cfg.debCount } := by
  rw [debTick_of_debNext (by rw [hd, hn, debNext_held_of_expiry]), ← hd]

/-- Settles O21: one rule of the tick per state of the machine, DEBOUNCING by the countdown and the level. -/
theorem debounceTickInEachState : Obligations.DebounceTickInEachState := by
  intro s l
  rw [exec_debTick]
  refine ⟨fun hidle => ?_, fun hpressed => ?_, fun hdeb hn => ?_, ?_, ?_⟩
  · rw [debTick_of_idle hidle]
  · rw [debTick_of_pressed hpressed]
  · rw [debTick_of_debouncing_of_ne_one hdeb hn]
  · rintro hdeb hn rfl
    rw [debTick_released_of_expiry hdeb hn]
  · rintro hdeb hn rfl
    rw [debTick_held_of_expiry hdeb hn]

end Sys2Proof.Machine
end

section
/-! PROOFS. The multiplexed seven-segment driver (spec/45_multiplexed_7seg_driver.md): the scan outputs, which every handler
but the scan tick's keeps, and what the scan tick reads (R200). -/

namespace Sys2Proof.Machine

variable {s t u : State}

/-- The three state elements R200 reserves to the scan tick. -/
def State.scanOutputs (s : State) : BitVec 1 × BitVec 8 × BitVec 2 := (s.scanPos, s.segOut, s.digSel)

theorem State.scanOutputs_eq_iff :
    t.scanOutputs = s.scanOutputs ↔ t.scanPos = s.scanPos ∧ t.segOut = s.segOut ∧ t.digSel = s.digSel := by
  simp [State.scanOutputs]

/-! ### The state operations keep the scan outputs -/

@[simp] theorem State.raise_scanOutputs (f : Fault) : (s.raise f).scanOutputs = s.scanOutputs := rfl

@[simp] theorem State.setRaw_scanOutputs (m : Mode) (v : Int) : (s.setRaw m v).scanOutputs = s.scanOutputs := by
  simp [State.scanOutputs]

@[simp] theorem State.setValue_scanOutputs (m : Mode) (v : Int) : (s.setValue m v).scanOutputs = s.scanOutputs := by
  simp [State.scanOutputs]

/-- A committed handler keeps the scan outputs if its writes do: a fault drops the writes (R230). -/
theorem State.commit_scanOutputs {r : Except Fault State} (hr : ∀ t, r = .ok t → t.scanOutputs = s.scanOutputs) :
    (s.commit r).scanOutputs = s.scanOutputs := by
  cases r with
  | ok t => exact hr t rfl
  | error f => exact State.raise_scanOutputs f

theorem afterLightingChange_scanOutputs {which : Mode} (h : afterLightingChange which s = .ok t) :
    t.scanOutputs = s.scanOutputs := by
  rw [afterLightingChange_ok h]
  rfl

theorem emit_scanOutputs {v : Int} (h : emit v s = .ok t) : t.scanOutputs = s.scanOutputs := by
  rw [emit_ok h]
  exact State.setValue_scanOutputs s.mode v

/-! ### The handlers keep the scan outputs -/

theorem encMove_scanOutputs {d : Int} (h : encMove d s = .ok t) : t.scanOutputs = s.scanOutputs := by
  simp only [encMove] at h
  split at h
  · exact (emit_scanOutputs h).trans (State.setRaw_scanOutputs _ _)
  · cases h
    exact State.setRaw_scanOutputs _ _

theorem encEdge_scanOutputs {ab : BitVec 2} (h : encEdge ab s = .ok t) : t.scanOutputs = s.scanOutputs := by
  by_cases hd : dir s.cfg.polarity (transition s.prevAb ab) = 0
  · cases (encEdge_of_dir_eq_zero hd).symm.trans h
    rfl
  · exact encMove_scanOutputs (s := s.latch ab) ((encEdge_of_dir_ne_zero hd).symm.trans h)

theorem State.pressInIdle_scanOutputs : s.pressInIdle.scanOutputs = s.scanOutputs :=
  State.setRaw_scanOutputs (s := { s with mode := s.mode.toggle }) _ _

/-- R172: in IDLE a press toggles the mode. -/
theorem btnEdge_press_of_idle (h : s.debState = .idle) : btnEdge .press s = s.pressInIdle := if_neg (not_not_intro h)

theorem btnEdge_scanOutputs (e : Edge) : (btnEdge e s).scanOutputs = s.scanOutputs := by
  cases e with
  | release => rw [btnEdge_release]
  | press =>
    by_cases hidle : s.debState = .idle
    · rw [btnEdge_press_of_idle hidle, State.pressInIdle_scanOutputs]
    · rw [btnEdge_press_of_ne_idle hidle]

/-- The first half of R200: an event that is not the scan tick answers a state with the scan outputs it found, whether or not
its handler faults. -/
theorem exec_keeps_scanOutputs {i : Instr} (hi : i ≠ .scanTick) (s : State) :
    ∃ t, exec i s = .next t ∧ t.scanOutputs = s.scanOutputs := by
  cases i with
  | scanTick => exact absurd rfl hi
  | encEdge ab => exact ⟨_, exec_encEdge ab s, State.commit_scanOutputs fun _ => encEdge_scanOutputs⟩
  | btnEdge e => exact ⟨_, exec_btnEdge e s, btnEdge_scanOutputs e⟩
  | debTick l => exact ⟨_, exec_debTick l s, rfl⟩
  | keyB | keyC | keyD => exact ⟨_, rfl, State.commit_scanOutputs fun _ => afterLightingChange_scanOutputs⟩
  | keyQ | keyA | keyW | keyS | keyH | keyOther => exact ⟨_, rfl, rfl⟩

/-! ### The scan tick -/

theorem exec_scanTick (s : State) : exec .scanTick s = .next (scanTick s) := rfl

@[simp] theorem scanTick_disp (s : State) : (scanTick s).disp = s.disp := rfl

/-- R198: what the scan tick leaves in the scan outputs. -/
theorem scanTick_scanOutputs (s : State) : (scanTick s).scanOutputs =
    (1 - s.scanPos, segPattern s.cfg.segMap (s.disp.slot s.scanPos), selectOf s.scanPos) := rfl

/-- The second half of R200: beside the configured patterns, the buffer and the position determine what the tick writes. -/
theorem scanTick_scanOutputs_congr (hdisp : s.disp = u.disp) (hpos : s.scanPos = u.scanPos)
    (hmap : s.cfg.segMap = u.cfg.segMap) : (scanTick s).scanOutputs = (scanTick u).scanOutputs := by
  rw [scanTick_scanOutputs, scanTick_scanOutputs, hdisp, hpos, hmap]

/-- Settles O29: the other handlers keep the scan outputs, and the tick's are determined by what it reads. -/
theorem scanOutputsBelongToTheScanTick : Obligations.ScanOutputsBelongToTheScanTick := by
  constructor
  · intro i s t ht hi
    obtain ⟨t', ht', hkept⟩ := exec_keeps_scanOutputs hi s
    obtain rfl : t' = t := Host.Outcome.next.inj (ht'.symm.trans ht)
    exact State.scanOutputs_eq_iff.1 hkept
  · intro s u t v hdisp hpos hmap ht hv
    obtain rfl : scanTick s = t := Host.Outcome.next.inj ht
    obtain rfl : scanTick u = v := Host.Outcome.next.inj hv
    obtain ⟨hscan, hseg, hdig⟩ := State.scanOutputs_eq_iff.1 (scanTick_scanOutputs_congr hdisp hpos hmap)
    exact ⟨hseg, hdig, hscan, scanTick_disp s⟩

end Sys2Proof.Machine
end

section
/-! PROOFS. The key commands (spec/46_key_commands.md): the two commands that write nothing, and `b`, `c` and `d`, which write a
value of `LightingState` in its range and then do `AFTER_LIGHTING_CHANGE`, so that no fault is raised (R221, R224). -/

namespace Sys2Proof.Machine

variable {s : State} {v : Int}

/-! ### Help and the characters that are no command -/

theorem exec_keyH (s : State) : exec .keyH s = .next s := rfl

theorem exec_keyOther (c : BitVec 8) (s : State) : exec (.keyOther c) s = .next s := rfl

/-- Settles O36: both handlers answer the state they are given. -/
theorem helpAndOtherKeysChangeNothing : Obligations.HelpAndOtherKeysChangeNothing :=
  fun s c => ⟨exec_keyH s, exec_keyOther c s⟩

/-! ### A written value and what follows it -/

/-- R221: after a value in the mode's range is written, both modules are driven with the new values, and the display is
rewritten if the mode is the active one. -/
theorem afterLightingChange_setValue {m : Mode} (hs : s.ValuesInRange) (hlo : (modeRange s.cfg m).lo ≤ v)
    (hhi : v ≤ (modeRange s.cfg m).hi) :
    afterLightingChange m (s.setValue m v) = .ok { s.setValue m v with
      pwm := Pwm.both (lightDuty s.cfg s.dt (s.setValue m v).colorTemp (s.setValue m v).intensity)
      disp := if s.mode = m then render v (policyOf m) else s.disp } := by
  have hvals := hs.setValue hlo hhi
  obtain ⟨hintensityLo, hintensityHi⟩ := hvals .intensity
  obtain ⟨hcolorLo, hcolorHi⟩ := hvals .color
  rw [afterLightingChange_inRange hintensityLo hintensityHi hcolorLo hcolorHi]
  by_cases hm : s.mode = m
  · subst hm
    simp
  · simp [hm, Ne.symm hm]

/-! ### `b` -/

theorem exec_keyB (s : State) :
    exec .keyB s = .next (s.commit (afterLightingChange .intensity (s.setValue .intensity (intensityNext s.intensity)))) := rfl

theorem intensityNext_eq_iff {i : Int} : intensityNext i = v ↔ i = 9 ∧ v = -1 ∨ i ≠ 9 ∧ v = i + 1 := by
  unfold intensityNext
  split <;> omega

/-- The brightness cycle stays in `[-1, 9]` (R22). -/
theorem intensityNext_mem {i : Int} (hlo : -1 ≤ i) (hhi : i ≤ 9) : -1 ≤ intensityNext i ∧ intensityNext i ≤ 9 := by
  unfold intensityNext
  split <;> omega

/-- Settles O37: the next value of the cycle is in range, so its change is written out without a fault. -/
theorem keyBCyclesBrightness : Obligations.KeyBCyclesBrightness := by
  intro s i hs hi
  obtain rfl : intensityNext s.intensity = i := intensityNext_eq_iff.2 hi
  obtain ⟨hlo, hhi⟩ := intensityNext_mem hs.intensityLo hs.intensityHi
  rw [exec_keyB, afterLightingChange_setValue hs.valuesInRange hlo hhi]
  rfl

/-! ### `c` and `d` -/

theorem exec_keyC (s : State) :
    exec .keyC s = .next (s.commit (afterLightingChange .color (s.setValue .color (max s.cfg.colorMin (s.colorTemp - 1))))) :=
  rfl

theorem exec_keyD (s : State) :
    exec .keyD s = .next (s.commit (afterLightingChange .color (s.setValue .color (min s.cfg.colorMax (s.colorTemp + 1))))) :=
  rfl

/-- Settles O38: the clamped step stays within the bounds, so its change is written out without a fault. -/
theorem keysCAndDStepTheColour : Obligations.KeysCAndDStepTheColour := by
  intro s ct hs
  have hlo := hs.colorLo
  have hhi := hs.colorHi
  constructor
  · intro hct
    have hnext : max s.cfg.colorMin (s.colorTemp - 1) = ct := by omega
    have hmin : s.cfg.colorMin ≤ ct := by omega
    have hmax : ct ≤ s.cfg.colorMax := by omega
    rw [exec_keyC, hnext, afterLightingChange_setValue hs.valuesInRange hmin hmax]
    rfl
  · intro hct
    have hnext : min s.cfg.colorMax (s.colorTemp + 1) = ct := by omega
    have hmin : s.cfg.colorMin ≤ ct := by omega
    have hmax : ct ≤ s.cfg.colorMax := by omega
    rw [exec_keyD, hnext, afterLightingChange_setValue hs.valuesInRange hmin hmax]
    rfl

end Sys2Proof.Machine
end

section
/-! PROOFS. Reset (spec/70_reset_and_hazards.md): the values of R260. Two of them are not plain fields: `DT` is read through
the stored table, and `prev_ab` depends on whether the configuration gives `INIT_AB`. -/

namespace Sys2Proof

/-- A table that stores no entry reads zero duties everywhere. -/
@[simp] theorem DutyTable.get_nil (t : Int) : DutyTable.get [] t = Duty.zero := rfl

end Sys2Proof

namespace Sys2Proof.Machine

/-- No table is built yet after reset. -/
@[simp] theorem resetWith_dt (c : Cfg) : (State.resetWith c).dt = [] := rfl

theorem get_dt_resetWith (c : Cfg) (t : Int) : DutyTable.get (State.resetWith c).dt t = Duty.zero := by
  rw [resetWith_dt, DutyTable.get_nil]

/-- R28: a given `INIT_AB` leaves nothing to draw. -/
theorem resetWith_prevAb_of_initAb {c : Cfg} {ab : BitVec 2} (hab : c.initAb = some ab) :
    (State.resetWith c).prevAb = ab := by
  simp [State.resetWith, hab]

/-- Settles O50: `DT` by its empty table, `prev_ab` where `INIT_AB` is given; every other value is the field's own. -/
theorem resetValues : Obligations.ResetValues := by
  intro c
  have hdt : ∀ t, DutyTable.get (State.resetWith c).dt t = ⟨0, 0⟩ := get_dt_resetWith c
  have hprev : ∀ ab, c.initAb = some ab → (State.resetWith c).prevAb = ab := fun _ => resetWith_prevAb_of_initAb
  exact ⟨rfl, rfl, rfl, hdt, rfl, rfl, rfl, rfl, rfl, rfl, rfl, rfl, rfl, rfl, hprev, rfl, rfl, rfl, rfl⟩

end Sys2Proof.Machine
end

section
/-! PROOFS. The event words (spec/30_encoding.md R71 to R79, R84): the decoder and the encoder are inverse to each other on the
well-formed events, so a word spells an event exactly where it is that event's word, and which words those are is read off the
encoder; then the words a script expands to (R91). -/

namespace Sys2Proof

variable {w : EventWord} {i : Instr}

/-! ### The words as numbers -/

theorem toNat_encode_encEdge : ∀ ab : BitVec 2, (encode (.encEdge ab)).toNat = 0x1000 + ab.toNat := by decide

theorem toNat_encode_edgeOf : ∀ x : BitVec 1, (encode (.btnEdge (edgeOf x))).toNat = 0x2000 + x.toNat := by decide

theorem toNat_encode_levelOf : ∀ x : BitVec 1, (encode (.debTick (levelOf x))).toNat = 0x3000 + x.toNat := by decide

theorem toNat_keyWord : ∀ c : BitVec 8, (keyWord c).toNat = 0x5000 + c.toNat := by decide

/-- R71: a word whose payload is zero from bit `start` upwards is its kind and its low bits. -/
theorem toNat_of_fields {k : BitVec 4} {start len : Nat} (hlen : start + len = 12) (hk : kindOf w = k)
    (hz : w.extractLsb' start len = 0) : w.toNat = 0x1000 * k.toNat + (w.extractLsb' 0 start).toNat := by
  have hkind : w.toNat / 0x1000 = k.toNat := by
    have hlt := w.isLt
    subst hk
    simp only [kindOf, BitVec.extractLsb'_toNat, Nat.shiftRight_eq_div_pow]
    omega
  have hpad : w.toNat / 2 ^ start % 2 ^ len = 0 := by
    simpa [Nat.shiftRight_eq_div_pow] using congrArg BitVec.toNat hz
  have hlow : w.toNat % 0x1000 = w.toNat % 2 ^ start := by
    have hsplit := Nat.mod_mul (x := w.toNat) (a := 2 ^ start) (b := 2 ^ len)
    rw [← pow_add, hlen, hpad] at hsplit
    simpa using hsplit
  have hbits : (w.extractLsb' 0 start).toNat = w.toNat % 2 ^ start := by simp
  omega

/-! ### Key events -/

theorem decode_keyWord : ∀ c : BitVec 8, decode (keyWord c) = .event (keyOf c) := by decide

/-- R84: a character that is no command is carried by the event. -/
theorem keyOf_of_not_mem : ∀ c : BitVec 8, c ∉ commandChars → keyOf c = .keyOther c := by decide

theorem wellFormed_keyOther {c : BitVec 8} : (Instr.keyOther c).wellFormed = true ↔ c ∉ commandChars := by
  simp [Instr.wellFormed]

theorem encode_keyOf : ∀ c : BitVec 8, encode (keyOf c) = keyWord c ∧ (keyOf c).wellFormed = true := by decide

/-! ### Decoder and encoder -/

/-- R78: the word of a well-formed event decodes to it. -/
theorem decode_encode (hi : i.wellFormed = true) : decode (encode i) = .event i := by
  cases i with
  | encEdge ab => revert ab; decide
  | btnEdge e => cases e <;> rfl
  | debTick l => cases l <;> rfl
  | scanTick | keyH | keyB | keyC | keyD | keyQ | keyA | keyW | keyS => rfl
  | keyOther c => rw [encode, decode_keyWord, keyOf_of_not_mem c (wellFormed_keyOther.1 hi)]

/-- R71 to R78: a word that decodes to an event is the word of that event, and the event is well-formed. -/
theorem eq_encode_of_decode (h : decode w = .event i) : w = encode i ∧ i.wellFormed = true := by
  unfold decode at h
  split_ifs at h with henc hbtn hdeb hscan hkey <;> cases h
  · refine ⟨BitVec.eq_of_toNat_eq ?_, rfl⟩
    rw [toNat_encode_encEdge]
    exact toNat_of_fields rfl henc.1 henc.2
  · refine ⟨BitVec.eq_of_toNat_eq ?_, rfl⟩
    rw [toNat_encode_edgeOf]
    exact toNat_of_fields rfl hbtn.1 hbtn.2
  · refine ⟨BitVec.eq_of_toNat_eq ?_, rfl⟩
    rw [toNat_encode_levelOf]
    exact toNat_of_fields rfl hdeb.1 hdeb.2
  · exact ⟨BitVec.eq_of_toNat_eq (by rw [toNat_of_fields (start := 0) rfl hscan.1 hscan.2]; simp [encode]), rfl⟩
  · obtain ⟨hword, hwf⟩ := encode_keyOf (w.extractLsb' 0 8)
    refine ⟨BitVec.eq_of_toNat_eq ?_, hwf⟩
    rw [hword, toNat_keyWord]
    exact toNat_of_fields rfl hkey.1 hkey.2

/-- R78: a word spells an event exactly where it is the word of that event. -/
theorem decode_eq_event_iff : decode w = .event i ↔ i.wellFormed = true ∧ w = encode i :=
  ⟨fun h => (eq_encode_of_decode h).symm, fun ⟨hwf, hw⟩ => hw ▸ decode_encode hwf⟩

/-- An event that is well-formed whatever its operand has the word of the given number. -/
theorem decode_iff_toNat {n : Nat} (hwf : i.wellFormed = true) (hn : (encode i).toNat = n) :
    decode w = .event i ↔ w.toNat = n := by
  rw [decode_eq_event_iff, ← hn, BitVec.toNat_inj]
  simp [hwf]

theorem decode_eq_keyOther_iff {c : BitVec 8} :
    decode w = .event (.keyOther c) ↔ w.toNat = 0x5000 + c.toNat ∧ c ∉ commandChars := by
  rw [decode_eq_event_iff, wellFormed_keyOther, ← toNat_keyWord, BitVec.toNat_inj, and_comm]
  rfl

/-! ### The words that are taken -/

/-- The numbers of the words that spell an event (R72 to R76). -/
def SpellsEvent (n : Nat) : Prop :=
  (0x1000 ≤ n ∧ n ≤ 0x1003) ∨ (0x2000 ≤ n ∧ n ≤ 0x2001) ∨ (0x3000 ≤ n ∧ n ≤ 0x3001) ∨ n = 0x4000 ∨
    (0x5000 ≤ n ∧ n ≤ 0x50FF)

theorem spellsEvent_encode (i : Instr) : SpellsEvent (encode i).toNat := by
  unfold SpellsEvent
  cases i with
  | encEdge ab =>
    have := toNat_encode_encEdge ab
    omega
  | btnEdge e => cases e <;> decide
  | debTick l => cases l <;> decide
  | scanTick | keyH | keyB | keyC | keyD | keyQ | keyA | keyW | keyS => decide
  | keyOther c =>
    have : (encode (.keyOther c)).toNat = 0x5000 + c.toNat := toNat_keyWord c
    omega

/-- Every number of the sets is the number of some event's word. -/
theorem exists_encode_of_spellsEvent {n : Nat} (h : SpellsEvent n) :
    ∃ i : Instr, i.wellFormed = true ∧ (encode i).toNat = n := by
  rcases h with ⟨hlo, hhi⟩ | ⟨hlo, hhi⟩ | ⟨hlo, hhi⟩ | rfl | ⟨hlo, hhi⟩
  · refine ⟨.encEdge (BitVec.ofNat 2 (n - 0x1000)), rfl, ?_⟩
    rw [toNat_encode_encEdge, BitVec.toNat_ofNat]
    omega
  · refine ⟨.btnEdge (edgeOf (BitVec.ofNat 1 (n - 0x2000))), rfl, ?_⟩
    rw [toNat_encode_edgeOf, BitVec.toNat_ofNat]
    omega
  · refine ⟨.debTick (levelOf (BitVec.ofNat 1 (n - 0x3000))), rfl, ?_⟩
    rw [toNat_encode_levelOf, BitVec.toNat_ofNat]
    omega
  · exact ⟨.scanTick, rfl, rfl⟩
  · obtain ⟨hword, hwf⟩ := encode_keyOf (BitVec.ofNat 8 (n - 0x5000))
    refine ⟨_, hwf, ?_⟩
    rw [hword, toNat_keyWord, BitVec.toNat_ofNat]
    omega

/-- R77: the reserved words are those outside the sets. -/
theorem decode_eq_reserved_iff : decode w = .reserved ↔ ¬ SpellsEvent w.toNat := by
  constructor
  · intro h hspells
    obtain ⟨i, hwf, hn⟩ := exists_encode_of_spellsEvent hspells
    rw [(decode_iff_toNat hwf hn).2 rfl] at h
    cases h
  · intro h
    cases hd : decode w with
    | reserved => rfl
    | event i => exact absurd ((eq_encode_of_decode hd).1 ▸ spellsEvent_encode i) h

/-- Settles O1, by one word per event; the key characters by the decoder's own split of them. -/
theorem decodeOfEncodeIsTheEvent : Obligations.DecodeOfEncodeIsTheEvent := fun _ hi => decode_encode hi

/-- Settles O2: each event has one word, whose number the encoder gives, and the reserved words are the others. -/
theorem eventWordsAsNumbers : Obligations.EventWordsAsNumbers := by
  intro w
  refine ⟨fun ab => decode_iff_toNat rfl (toNat_encode_encEdge ab), decode_iff_toNat rfl rfl, decode_iff_toNat rfl rfl,
    decode_iff_toNat rfl rfl, decode_iff_toNat rfl rfl, decode_iff_toNat rfl rfl, decode_iff_toNat rfl rfl,
    decode_iff_toNat rfl rfl, decode_iff_toNat rfl rfl, decode_iff_toNat rfl rfl, decode_iff_toNat rfl rfl,
    decode_iff_toNat rfl rfl, decode_iff_toNat rfl rfl, decode_iff_toNat rfl rfl, fun c => decode_eq_keyOther_iff, ?_⟩
  rw [decode_eq_reserved_iff, SpellsEvent, not_or, not_or, not_or, not_or]

/-- Settles O3: each sample is the word of its event, and the two reserved ones lie outside the sets of O2. -/
theorem sampleWordsDecode : Obligations.SampleWordsDecode := by
  have hreserved : ∀ w : EventWord, ¬ SpellsEvent w.toNat → decode w = .reserved := fun _ => decode_eq_reserved_iff.2
  refine ⟨decode_encode (i := .encEdge 0b11) rfl, decode_encode (i := .btnEdge .press) rfl,
    decode_encode (i := .debTick .released) rfl, decode_encode (i := .scanTick) rfl, decode_encode (i := .keyB) rfl,
    decode_encode (i := .keyOther 0x42) rfl, hreserved _ ?_, hreserved _ ?_⟩ <;> unfold SpellsEvent <;> decide

end Sys2Proof

namespace Sys2Proof.Machine

/-! ### Scripts -/

/-- R91: `n` edges along `next` are `n` words that spell them. -/
theorem map_decode_turn (next : BitVec 2 → BitVec 2) (n : Nat) (ab : BitVec 2) :
    (turn next n ab).1.map decode = (turnEdges next n ab).map .event := by
  induction n generalizing ab with
  | zero => rfl
  | succ n ih => simp [turn, turnEdges, ih, decode_encode (i := .encEdge (next ab)) rfl]

/-- A script of one line expands to that line's words. -/
theorem expand_singleton (c : Cfg) (ab : BitVec 2) (l : ScriptLine) : expand c ab [l] = (expandLine c ab l).1 := by
  simp [expand]

/-- Settles O60: `CLICK` by its words, a turn by induction on its edges, and the directions by readings. -/
theorem scriptsExpandToEventWords : Obligations.ScriptsExpandToEventWords := by
  refine ⟨fun c ab => ?_, fun c ab n => ?_, by decide⟩
  · rw [expand_singleton]
    rfl
  · rw [expand_singleton, expand_singleton]
    exact ⟨map_decode_turn nextCw n ab, map_decode_turn nextCcw n ab⟩

end Sys2Proof.Machine
end

section
/-! PROOFS. What the builder gives (spec/41_duty_cycle_accumulator.md): when it gives a table and when it refuses (R119, R120),
what the reference mix meets (R112), and the range and the maxima of the table (R121, R122). -/

namespace Sys2Proof.Machine

/-! ### The rescale of one value -/

section Rescale

variable {n : BuildNumerics} {pwmMax : Int} {m raw raw' : Rat}

theorem rescaled_nonneg (hp : 0 ≤ pwmMax) (hm : 0 < m) (hraw : 0 ≤ raw) : 0 ≤ rescaled n pwmMax m raw := by
  cases n with
  | exact =>
    have hp' : (0 : Rat) ≤ pwmMax := by exact_mod_cast hp
    exact trunc_not_neg (by positivity)
  | other => exact (withinRange_mem hp _).1

/-- R116: a value that is not above `M` is stored as a duty that is not above `PWM_MAX`. -/
theorem rescaled_le_pwmMax (hp : 0 ≤ pwmMax) (hm : 0 < m) (hraw : 0 ≤ raw) (hle : raw ≤ m) :
    rescaled n pwmMax m raw ≤ pwmMax := by
  cases n with
  | exact =>
    have hp' : (0 : Rat) ≤ pwmMax := by exact_mod_cast hp
    calc trunc (raw * pwmMax / m) ≤ trunc (pwmMax : Rat) :=
          trunc_mono (by positivity) (by rw [div_le_iff₀ hm, mul_comm]; gcongr)
      _ = pwmMax := trunc_intCast _
  | other => exact (withinRange_mem hp _).2

/-- R114, R116: `M` itself is stored as `PWM_MAX`. -/
theorem rescaled_exact_self (hm : 0 < m) : rescaled .exact pwmMax m m = pwmMax := by
  rw [rescaled, mul_div_cancel_left₀ _ hm.ne', trunc_intCast]

theorem rescaled_exact_mono (hp : 0 ≤ pwmMax) (hm : 0 < m) (hraw : 0 ≤ raw) (hle : raw ≤ raw') :
    rescaled .exact pwmMax m raw ≤ rescaled .exact pwmMax m raw' := by
  have hp' : (0 : Rat) ≤ pwmMax := by exact_mod_cast hp
  exact trunc_mono (by positivity) (by gcongr)

end Rescale

/-! ### What `BUILD` answers -/

section Build

variable {c : Cfg} {b : BuildCfg} {dt : DutyTable} {f : Fault}

/-- R101, R103: in a well-formed configuration phase 1 finds a point for every intermediate temperature. -/
theorem rawIntermediates_ok (hwf : c.wellFormed = true) (hs : c.source = .build b) :
    ∃ r, rawIntermediates c.pwmMax b (temperatures (c.tWarm + 1) (c.tCold - 1)) = .ok r ∧
      r.map Prod.fst = temperatures (c.tWarm + 1) (c.tCold - 1) ∧
      ∀ e ∈ r, ∃ p ∈ b.chroma, p.t = e.1 ∧ e.2 = rawMix b (mixInput c.pwmMax b p) := by
  obtain ⟨-, hc, hlo, hhi⟩ := wellFormed_build hwf hs
  exact rawIntermediates_inRange hc c.pwmMax _ fun t ht => by have := mem_temperatures.1 ht; omega

/-- R111, R120: what passes the check holds the mixes of the intermediate temperatures, none of them negative. -/
theorem isIntermediates_of_checkedRaw {r : List (Int × Option RawDuty)} {l : List (Int × RawDuty)}
    (htemps : r.map Prod.fst = temperatures (c.tWarm + 1) (c.tCold - 1))
    (hmix : ∀ e ∈ r, ∃ p ∈ b.chroma, p.t = e.1 ∧ e.2 = rawMix b (mixInput c.pwmMax b p)) (hl : checkedRaw r = some l) :
    IsIntermediates c b l ∧ ∀ e ∈ l, 0 ≤ e.2.warm ∧ 0 ≤ e.2.cold := by
  obtain ⟨hkeys, hmem⟩ := checkedRaw_some hl
  refine ⟨⟨hkeys.trans htemps, fun e he => ?_⟩, fun e he => ?_⟩ <;> obtain ⟨hwarm, hcold, her⟩ := hmem e he
  · obtain ⟨p, hp, hpt, hpr⟩ := hmix _ her
    exact ⟨p, hp, hpt, hpr.symm⟩
  · exact ⟨hwarm, hcold⟩

/-- R119, R120: in a well-formed configuration `BUILD` refuses a bad raw value, or every intermediate mix has a value, none
is negative, and the phases run on them. -/
theorem build_cases (hwf : c.wellFormed = true) (hs : c.source = .build b) :
    build c = .error (.refusal .configRawNegative) ∨
      ∃ l w k, IsIntermediates c b l ∧ (∀ e ∈ l, 0 ≤ e.2.warm ∧ 0 ≤ e.2.cold) ∧
        endpointRaw c.pwmMax b b.lumWarm = some w ∧ endpointRaw c.pwmMax b b.lumCold = some k ∧ 0 ≤ w ∧ 0 ≤ k ∧
        build c = buildPhases b.numerics c.pwmMax c.tWarm c.tCold ⟨w, 0⟩ l ⟨0, k⟩ := by
  obtain ⟨r, hr, htemps, hmix⟩ := rawIntermediates_ok hwf hs
  simp only [build, hs, buildTable, hr]
  split
  next l w k hl hw hk =>
    split
    next => exact .inl rfl
    next hneg =>
      obtain ⟨hl', hnonneg⟩ := isIntermediates_of_checkedRaw htemps hmix hl
      exact .inr ⟨l, w, k, hl', hnonneg, hw, hk, not_lt.1 fun h => hneg (.inl h), not_lt.1 fun h => hneg (.inr h), rfl⟩
  next => exact .inl rfl

/-- The check of R120 passes where every pair is finite and not negative. -/
theorem exists_checkedRaw {r : List (Int × Option RawDuty)}
    (h : ∀ e ∈ r, ∃ d, e.2 = some d ∧ 0 ≤ d.warm ∧ 0 ≤ d.cold) :
    ∃ l, checkedRaw r = some l := by
  induction r with
  | nil => exact ⟨[], rfl⟩
  | cons e r ih =>
    obtain ⟨t, v⟩ := e
    obtain ⟨d, rfl, hwarm, hcold⟩ := h _ List.mem_cons_self
    obtain ⟨l, hl⟩ := ih fun e he => h e (List.mem_cons_of_mem _ he)
    exact ⟨(t, d) :: l, by simp [checkedRaw, hl, hwarm.not_gt, hcold.not_gt]⟩

/-- R8: the luminous fluxes of a well-formed configuration are positive. -/
theorem lumens_pos (hwf : c.wellFormed = true) (hs : c.source = .build b) : 0 < b.lumWarm ∧ 0 < b.lumCold := by
  simp only [Cfg.wellFormed, Cfg.sourceOk, hs, BuildCfg.lumensOk, Bool.and_eq_true, decide_eq_true_eq] at hwf
  tauto

/-- R113 under exact arithmetic: an endpoint's own raw value is finite and not negative. -/
theorem exists_endpointRaw_nonneg (hwf : c.wellFormed = true) (hs : c.source = .build b) (hn : b.numerics = .exact)
    {lum : Rat} (hlum : 0 < lum) : ∃ v, endpointRaw c.pwmMax b lum = some v ∧ 0 ≤ v := by
  obtain ⟨hp, -⟩ := wellFormed_build hwf hs
  obtain ⟨hwarm, hcold⟩ := lumens_pos hwf hs
  have hp' : (1 : Rat) ≤ c.pwmMax := by exact_mod_cast hp
  exact ⟨_, by simp only [endpointRaw, hn]; exact if_neg hlum.ne', by positivity⟩

/-- R119 under exact arithmetic: where every intermediate mix is finite and not negative, `BUILD` runs the phases on them. -/
theorem build_of_mix_nonneg (hwf : c.wellFormed = true) (hs : c.source = .build b) (hn : b.numerics = .exact)
    (hmix : ∀ p ∈ b.chroma, c.tWarm < p.t → p.t < c.tCold →
      ∃ r, rawMix b (mixInput c.pwmMax b p) = some r ∧ 0 ≤ r.warm ∧ 0 ≤ r.cold) :
    ∃ l w k, IsIntermediates c b l ∧ build c = buildPhases .exact c.pwmMax c.tWarm c.tCold ⟨w, 0⟩ l ⟨0, k⟩ := by
  obtain ⟨r, hr, htemps, hpoints⟩ := rawIntermediates_ok hwf hs
  obtain ⟨hlumWarm, hlumCold⟩ := lumens_pos hwf hs
  obtain ⟨w, hw, hw0⟩ := exists_endpointRaw_nonneg hwf hs hn hlumWarm
  obtain ⟨k, hk, hk0⟩ := exists_endpointRaw_nonneg hwf hs hn hlumCold
  obtain ⟨l, hl⟩ : ∃ l, checkedRaw r = some l := by
    refine exists_checkedRaw fun e he => ?_
    obtain ⟨p, hp, hpt, hpr⟩ := hpoints e he
    have htemp := mem_temperatures.1 (htemps ▸ List.mem_map_of_mem he)
    obtain ⟨d, hd, hnonneg⟩ := hmix p hp (by omega) (by omega)
    exact ⟨d, hpr.trans hd, hnonneg⟩
  have hok : build c = buildPhases .exact c.pwmMax c.tWarm c.tCold ⟨w, 0⟩ l ⟨0, k⟩ := by
    simp [build, hs, buildTable, hr, hl, hw, hk, hw0.not_gt, hk0.not_gt, hn]
  exact ⟨l, w, k, (isIntermediates_of_checkedRaw htemps hpoints hl).1, hok⟩

/-- Settles O53: a supplied table is no fault, phase 1 finds its points, and the phases can only refuse. -/
theorem builderNeverFaults : Obligations.BuilderNeverFaults := by
  intro c f hwf hfault
  cases hs : c.source with
  | supplied t => simp [build, hs] at hfault
  | build b =>
    rcases build_cases hwf hs with h | ⟨l, w, k, -, -, -, -, -, -, h⟩ <;> rw [h] at hfault
    · cases hfault
    · by_cases hm : 0 < scaleMax l
      · rw [buildPhases_of_pos hm] at hfault
        cases hfault
      · rw [buildPhases_of_not_pos (not_lt.1 hm)] at hfault
        cases hfault

end Build

/-! ### The range of the table -/

section TableRange

variable {c : Cfg} {b : BuildCfg} {dt : DutyTable} {n : BuildNumerics} {p lo hi : Int} {l : List (Int × RawDuty)} {w k : RawDuty}

/-- R50, R36: the contents of a table in `[0, p]` on `[lo, hi]`, nothing elsewhere; and the canonical form. -/
structure TableInRange (p lo hi : Int) (dt : DutyTable) : Prop where
  wf : DutyTable.wf dt = true
  inRange : ∀ t, (DutyTable.get dt t).InRange p
  outside : ∀ t, t < lo ∨ hi < t → DutyTable.get dt t = Duty.zero

theorem duty_zero_inRange (hp : 0 ≤ p) : Duty.zero.InRange p := ⟨le_rfl, hp, le_rfl, hp⟩

theorem tableInRange_nil (hp : 0 ≤ p) : TableInRange p lo hi [] :=
  ⟨rfl, fun _ => duty_zero_inRange hp, fun _ _ => rfl⟩

/-- R121: a supplied table that is admitted is in range, since what it reads is zero or one of its entries. -/
theorem tableInRange_of_suppliedOk (hp : 0 ≤ p) (h : DutyTable.suppliedOk dt p lo hi = true) : TableInRange p lo hi dt := by
  simp only [DutyTable.suppliedOk, Bool.and_eq_true, List.all_eq_true, decide_eq_true_eq, and_assoc] at h
  obtain ⟨hwf, hentries⟩ := h
  refine ⟨hwf, fun t => ?_, fun t ht => ?_⟩
  · rcases DutyTable.get_zero_or_mem dt t with hzero | hmem
    · exact hzero ▸ duty_zero_inRange hp
    · obtain ⟨-, -, hwarmLo, hwarmHi, hcoldLo, hcoldHi⟩ := hentries _ hmem
      exact ⟨hwarmLo, hwarmHi, hcoldLo, hcoldHi⟩
  · refine (DutyTable.get_zero_or_mem dt t).resolve_right fun hmem => ?_
    obtain ⟨hlo, hhi, -⟩ := hentries _ hmem
    exact ht.elim hlo.not_gt hhi.not_gt

theorem clampedDuty_inRange (hp : 0 ≤ p) {d : Duty} (hwarm : 0 ≤ d.warm) (hcold : 0 ≤ d.cold) :
    (clampedDuty p d).InRange p :=
  ⟨le_min hwarm hp, min_le_right _ _, le_min hcold hp, min_le_right _ _⟩

/-- R114 to R117: from raw values that are not negative the phases give a table in range. -/
theorem tableInRange_of_buildPhases (hp : 0 ≤ p) (htemps : l.map Prod.fst = temperatures (lo + 1) (hi - 1))
    (hl : ∀ e ∈ l, 0 ≤ e.2.warm ∧ 0 ≤ e.2.cold) (hw : 0 ≤ w.warm ∧ 0 ≤ w.cold) (hk : 0 ≤ k.warm ∧ 0 ≤ k.cold)
    (hok : buildPhases n p lo hi w l k = .ok dt) : TableInRange p lo hi dt := by
  have hm := scaleMax_pos_of_buildPhases_ok hok
  have hmid : ∀ e ∈ l, lo < e.1 ∧ e.1 < hi := fun e he => by
    have ht := mem_temperatures.1 (htemps ▸ List.mem_map_of_mem he)
    omega
  obtain ⟨hgetLo, hgetHi, hget⟩ := get_of_buildPhases_ok hok hmid (htemps ▸ temperatures_nodup _ _)
  have hdt := Except.ok.inj ((buildPhases_of_pos hm).symm.trans hok)
  have hlt : lo < hi := by
    obtain ⟨e, he, -⟩ := scaleMax_attained hm
    exact (hmid e he).1.trans (hmid e he).2
  have houtside : ∀ t, t < lo ∨ hi < t → DutyTable.get dt t = Duty.zero := fun t ht => by
    rw [← hdt]
    refine DutyTable.get_ofEntries_of_not_mem fun e he heq => ?_
    have hkey := List.mem_map_of_mem (f := Prod.fst) he
    rw [map_fst_clampEndpoints_rescaleTable, List.map_cons, List.map_append, htemps, List.map_singleton, List.mem_cons,
      List.mem_append, mem_temperatures, List.mem_singleton, heq] at hkey
    omega
  refine ⟨hdt ▸ DutyTable.ofEntries_wf _, fun t => ?_, houtside⟩
  by_cases ht : t < lo ∨ hi < t
  · exact houtside t ht ▸ duty_zero_inRange hp
  · rcases eq_or_ne t lo with rfl | hlo
    · rw [hgetLo]
      exact clampedDuty_inRange hp (rescaled_nonneg hp hm hw.1) (rescaled_nonneg hp hm hw.2)
    · rcases eq_or_ne t hi with rfl | hhi
      · rw [hgetHi]
        exact clampedDuty_inRange hp (rescaled_nonneg hp hm hk.1) (rescaled_nonneg hp hm hk.2)
      · have hkey : t ∈ l.map Prod.fst := htemps ▸ mem_temperatures.2 (by omega)
        obtain ⟨e, he, rfl⟩ := List.mem_map.1 hkey
        obtain ⟨hwarm, hcold⟩ := hl e he
        obtain ⟨hwarmLe, hcoldLe⟩ := (scaleMax_spec l).2.1 e he
        rw [hget e he]
        exact ⟨rescaled_nonneg hp hm hwarm, rescaled_le_pwmMax hp hm hwarm hwarmLe,
          rescaled_nonneg hp hm hcold, rescaled_le_pwmMax hp hm hcold hcoldLe⟩

theorem pwmMax_pos (hwf : c.wellFormed = true) : 0 < c.pwmMax := by
  simp only [Cfg.wellFormed, Cfg.pwmMaxOk, Bool.and_eq_true, decide_eq_true_eq] at hwf
  omega

/-- R121, R122 (a): the table of boot step 1 is in range, built or supplied. -/
theorem tableInRange_of_build (hwf : c.wellFormed = true) (hb : build c = .ok dt) :
    TableInRange c.pwmMax c.tWarm c.tCold dt := by
  have hp := (pwmMax_pos hwf).le
  cases hs : c.source with
  | supplied t =>
    obtain rfl : t = dt := by simpa [build, hs] using hb
    refine tableInRange_of_suppliedOk hp ?_
    simp only [Cfg.wellFormed, Cfg.sourceOk, hs, Bool.and_eq_true] at hwf
    exact hwf.2
  | build b =>
    rcases build_cases hwf hs with h | ⟨l, w, k, hl, hnonneg, -, -, hw, hk, h⟩ <;> rw [hb] at h
    · cases h
    · exact tableInRange_of_buildPhases hp hl.temperatures_eq hnonneg ⟨hw, le_rfl⟩ ⟨le_rfl, hk⟩ h.symm

/-- Settles O55, by the two sources of the table. -/
theorem builtTableIsInRange : Obligations.BuiltTableIsInRange := by
  intro c dt hwf hb
  have h := tableInRange_of_build hwf hb
  exact ⟨h.wf, fun t => ⟨fun _ _ => h.inRange t, h.outside t⟩⟩

/-- Settles O56: the intermediate temperature where `M` is attained stores `PWM_MAX` in that channel. -/
theorem builtTableReachesPwmMax : Obligations.BuiltTableReachesPwmMax := by
  intro c b dt hwf hs hn hb
  obtain ⟨l, w, k, hl, -, -, -, -, hok⟩ := build_ok hwf hs hb
  rw [hn] at hok
  have hm := scaleMax_pos_of_buildPhases_ok hok
  obtain ⟨-, -, hget⟩ := get_of_buildPhases_ok hok hl.between hl.nodup
  obtain ⟨e, he, hatt⟩ := scaleMax_attained hm
  obtain ⟨hlo, hhi⟩ := hl.between e he
  refine ⟨e.1, hlo, hhi, ?_⟩
  rw [hget e he]
  rcases hatt with h | h
  · exact .inl (by rw [rescaledDuty, h, rescaled_exact_self hm])
  · exact .inr (by rw [rescaledDuty, h, rescaled_exact_self hm])

end TableRange

/-! ### The reference mix -/

section Reference

variable {m : MixInput} {r : RawDuty} {c : Cfg} {b : BuildCfg}

/-- R112: the total illuminance of the mix is the sum of both maxima, and its luminances are in the ratio the geometry asks. -/
theorem referenceMix_targets (h : referenceMix m = some r) :
    r.warm * m.lumWarm + r.cold * m.lumCold = (m.lumWarm + m.lumCold) * m.pwmMax ∧
      r.warm * m.lumWarm * (m.ledCold.y * (m.x - m.ledWarm.x)) =
        r.cold * m.lumCold * (m.ledWarm.y * (m.ledCold.x - m.x)) := by
  unfold referenceMix at h
  simp only at h
  split_ifs at h with hdiv hq
  simp only [not_or] at hdiv
  obtain ⟨hx, hy, hwarm, hcold⟩ := hdiv
  have hx' : m.x - m.ledWarm.x ≠ 0 := sub_ne_zero.2 hx
  obtain rfl := Option.some.inj h
  generalize hqdef : (m.ledCold.x - m.x) / (m.x - m.ledWarm.x) * m.ledWarm.y / m.ledCold.y = q at hq
  constructor
  · field_simp
  · have hratio : q * (m.ledCold.y * (m.x - m.ledWarm.x)) = m.ledWarm.y * (m.ledCold.x - m.x) := by
      rw [← hqdef]
      field_simp
    rw [← hratio]
    field_simp

/-- R112, log 14: the mix has no value on the warm LED's `x`. -/
theorem referenceMix_of_warm_x (h : m.x = m.ledWarm.x) : referenceMix m = none := if_pos (.inl h)

/-- The target's `x` between the LEDs, the warm LED's own `x` excepted (R112). -/
def BetweenLeds (xw xc x : Rat) : Prop := xw < x ∧ x ≤ xc ∨ xc ≤ x ∧ x < xw

/-- R112: between the LEDs the mix has a value, which is not negative. -/
theorem referenceMix_nonneg (hp : 0 < m.pwmMax) (hlumWarm : 0 < m.lumWarm) (hlumCold : 0 < m.lumCold)
    (hyWarm : 0 < m.ledWarm.y) (hyCold : 0 < m.ledCold.y) (hx : BetweenLeds m.ledWarm.x m.ledCold.x m.x) :
    ∃ r, referenceMix m = some r ∧ 0 ≤ r.warm ∧ 0 < r.cold := by
  have hp' : (0 : Rat) < m.pwmMax := by exact_mod_cast hp
  have hne : m.x ≠ m.ledWarm.x := by
    rcases hx with ⟨h, -⟩ | ⟨-, h⟩
    exacts [h.ne', h.ne]
  have hrho : 0 ≤ (m.ledCold.x - m.x) / (m.x - m.ledWarm.x) := by
    rcases hx with ⟨h1, h2⟩ | ⟨h1, h2⟩
    · exact div_nonneg (sub_nonneg.2 h2) (sub_nonneg.2 h1.le)
    · exact div_nonneg_of_nonpos (sub_nonpos.2 h1) (sub_nonpos.2 h2.le)
  unfold referenceMix
  simp only [hne, hyCold.ne', hlumWarm.ne', hlumCold.ne', or_self, if_false]
  generalize (m.ledCold.x - m.x) / (m.x - m.ledWarm.x) = rho at hrho
  have hq : 0 ≤ rho * m.ledWarm.y / m.ledCold.y := by positivity
  generalize rho * m.ledWarm.y / m.ledCold.y = q at hq
  rw [if_neg (by positivity)]
  exact ⟨_, rfl, by positivity, by positivity⟩

/-- R112, R120: off the segment between the LEDs a value of the mix is negative in a channel. -/
theorem referenceMix_negative (hp : 0 < m.pwmMax) (hlumWarm : 0 < m.lumWarm) (hlumCold : 0 < m.lumCold)
    (hyWarm : 0 < m.ledWarm.y) (hyCold : 0 < m.ledCold.y) (hx : ¬ BetweenLeds m.ledWarm.x m.ledCold.x m.x)
    (h : referenceMix m = some r) : r.warm < 0 ∨ r.cold < 0 := by
  have hne : m.x ≠ m.ledWarm.x := fun heq => by
    rw [referenceMix_of_warm_x heq] at h
    cases h
  obtain ⟨hsum, hratio⟩ := referenceMix_targets h
  have hp' : (0 : Rat) < m.pwmMax := by exact_mod_cast hp
  by_contra hneg
  simp only [not_or, not_lt] at hneg
  obtain ⟨hwarm, hcold⟩ := hneg
  have hopposite : (m.x - m.ledWarm.x) * (m.ledCold.x - m.x) < 0 := by
    rcases hne.lt_or_gt with hlt | hgt
    · have hbelow : m.x < m.ledCold.x := not_le.1 fun hle => hx (.inr ⟨hle, hlt⟩)
      exact mul_neg_of_neg_of_pos (sub_neg.2 hlt) (sub_pos.2 hbelow)
    · have habove : m.ledCold.x < m.x := not_le.1 fun hle => hx (.inl ⟨hgt, hle⟩)
      exact mul_neg_of_pos_of_neg (sub_pos.2 hgt) (sub_neg.2 habove)
  have hbalance : r.warm * (m.lumWarm * m.ledCold.y * (m.x - m.ledWarm.x) ^ 2) +
      r.cold * (m.lumCold * m.ledWarm.y * -((m.x - m.ledWarm.x) * (m.ledCold.x - m.x))) = 0 := by
    linear_combination (m.x - m.ledWarm.x) * hratio
  have hwarmPos : 0 < m.lumWarm * m.ledCold.y * (m.x - m.ledWarm.x) ^ 2 := by
    have := sub_ne_zero.2 hne
    positivity
  have hcoldPos : 0 < m.lumCold * m.ledWarm.y * -((m.x - m.ledWarm.x) * (m.ledCold.x - m.x)) := by
    have := neg_pos.2 hopposite
    positivity
  obtain ⟨hwarm0, hcold0⟩ :=
    (add_eq_zero_iff_of_nonneg (mul_nonneg hwarm hwarmPos.le) (mul_nonneg hcold hcoldPos.le)).1 hbalance
  rw [(mul_eq_zero.1 hwarm0).resolve_right hwarmPos.ne', (mul_eq_zero.1 hcold0).resolve_right hcoldPos.ne'] at hsum
  have : 0 < (m.lumWarm + m.lumCold) * m.pwmMax := by positivity
  linarith

/-- Settles O58: the targets by the definition's formula, the value and its sign by the sign of the ratio. -/
theorem referenceMixMeetsItsTargets : Obligations.ReferenceMixMeetsItsTargets :=
  ⟨fun _ _ => referenceMix_targets, fun _ => referenceMix_nonneg, fun _ => referenceMix_of_warm_x⟩

/-- R8: the LEDs of a well-formed configuration have positive `y`. -/
theorem led_y_pos (hwf : c.wellFormed = true) (hs : c.source = .build b) : 0 < b.ledWarm.y ∧ 0 < b.ledCold.y := by
  simp only [Cfg.wellFormed, Cfg.sourceOk, hs, BuildCfg.ledsOk, Bool.and_eq_true, decide_eq_true_eq] at hwf
  tauto

/-- R112, R113: under the reference mix no intermediate raw value is above its channel's endpoint value. -/
theorem referenceMix_le_endpoint (hwf : c.wellFormed = true) (hs : c.source = .build b) {p : ChromaPoint}
    (h : referenceMix (mixInput c.pwmMax b p) = some r) (hwarm : 0 ≤ r.warm) (hcold : 0 ≤ r.cold) :
    r.warm ≤ c.pwmMax * (b.lumWarm + b.lumCold) / b.lumWarm ∧ r.cold ≤ c.pwmMax * (b.lumWarm + b.lumCold) / b.lumCold := by
  obtain ⟨hlumWarm, hlumCold⟩ := lumens_pos hwf hs
  have hsum : r.warm * b.lumWarm + r.cold * b.lumCold = (b.lumWarm + b.lumCold) * c.pwmMax := (referenceMix_targets h).1
  have hcold' : 0 ≤ r.cold * b.lumCold := by positivity
  have hwarm' : 0 ≤ r.warm * b.lumWarm := by positivity
  constructor
  · rw [le_div_iff₀ hlumWarm]
    linarith
  · rw [le_div_iff₀ hlumCold]
    linarith

/-- Settles O57: each endpoint's raw value bounds its column's, the rescale keeps the order, and no intermediate entry is
above `PWM_MAX`. -/
theorem endpointsHoldTheirColumnsMaximum : Obligations.EndpointsHoldTheirColumnsMaximum := by
  intro c b dt hwf hs hn href hb
  have hrange := tableInRange_of_build hwf hb
  obtain ⟨hp, -⟩ := wellFormed_build hwf hs
  have hp0 : 0 ≤ c.pwmMax := by omega
  rcases build_cases hwf hs with h | ⟨l, w, k, hl, hnonneg, hw, hk, hw0, hk0, hok⟩
  · rw [hb] at h
    cases h
  rw [hb, hn] at hok
  have hm := scaleMax_pos_of_buildPhases_ok hok.symm
  obtain ⟨hgetWarm, hgetCold, hget⟩ := get_of_buildPhases_ok hok.symm hl.between hl.nodup
  have hwarmCold : (DutyTable.get dt c.tWarm).cold = 0 := by
    rw [hgetWarm]
    exact min_rescaled_zero hp _
  have hcoldWarm : (DutyTable.get dt c.tCold).warm = 0 := by
    rw [hgetCold]
    exact min_rescaled_zero hp _
  refine ⟨hwarmCold, hcoldWarm, fun t hlo hhi => ?_⟩
  rcases hlo.eq_or_lt with rfl | hlo
  · exact ⟨le_rfl, hwarmCold ▸ (hrange.inRange _).coldLo⟩
  rcases hhi.eq_or_lt with rfl | hhi
  · exact ⟨hcoldWarm ▸ (hrange.inRange _).warmLo, le_rfl⟩
  have hkey : t ∈ l.map Prod.fst := hl.temperatures_eq ▸ mem_temperatures.2 (by omega)
  obtain ⟨e, he, rfl⟩ := List.mem_map.1 hkey
  obtain ⟨hwarm, hcold⟩ := hnonneg e he
  obtain ⟨hwarmLe, hcoldLe⟩ := (scaleMax_spec l).2.1 e he
  obtain ⟨p, -, -, hmix⟩ := hl.mix_eq e he
  rw [rawMix_reference_exact hn href] at hmix
  obtain ⟨hwarmEnd, hcoldEnd⟩ := referenceMix_le_endpoint hwf hs hmix hwarm hcold
  rw [← endpointRaw_exact hn hw] at hwarmEnd
  rw [← endpointRaw_exact hn hk] at hcoldEnd
  rw [hget e he, hgetWarm, hgetCold]
  exact ⟨le_min (rescaled_exact_mono hp0 hm hwarm hwarmEnd) (rescaled_le_pwmMax (n := .exact) hp0 hm hwarm hwarmLe),
    le_min (rescaled_exact_mono hp0 hm hcold hcoldEnd) (rescaled_le_pwmMax (n := .exact) hp0 hm hcold hcoldLe)⟩

/-! ### Which configurations are refused -/

/-- R120: a raw value of an intermediate temperature that is not finite or negative refuses the configuration. -/
theorem build_of_bad_mix (hwf : c.wellFormed = true) (hs : c.source = .build b) {p : ChromaPoint} (hp : p ∈ b.chroma)
    (hlo : c.tWarm < p.t) (hhi : p.t < c.tCold)
    (hbad : ∀ r, rawMix b (mixInput c.pwmMax b p) = some r → r.warm < 0 ∨ r.cold < 0) :
    build c = .error (.refusal .configRawNegative) := by
  refine (build_cases hwf hs).resolve_right ?_
  rintro ⟨l, w, k, hl, hnonneg, -⟩
  obtain ⟨-, hc, -⟩ := wellFormed_build hwf hs
  have hneg := hbad _ (hl.rawMix_eq hc hp hlo hhi)
  obtain ⟨hwarm, hcold⟩ := hnonneg _ (hl.mem hc hlo hhi)
  exact hneg.elim hwarm.not_gt hcold.not_gt

/-- R119 under exact arithmetic: finite intermediate raw values, none negative and one positive, give a table. -/
theorem exists_build_of_mix (hwf : c.wellFormed = true) (hs : c.source = .build b) (hn : b.numerics = .exact)
    (hmix : ∀ p ∈ b.chroma, c.tWarm < p.t → p.t < c.tCold →
      ∃ r, rawMix b (mixInput c.pwmMax b p) = some r ∧ 0 ≤ r.warm ∧ 0 ≤ r.cold)
    (hpos : ∃ p ∈ b.chroma, c.tWarm < p.t ∧ p.t < c.tCold ∧
      ∃ r, rawMix b (mixInput c.pwmMax b p) = some r ∧ (0 < r.warm ∨ 0 < r.cold)) : ∃ dt, build c = .ok dt := by
  obtain ⟨l, w, k, hl, hok⟩ := build_of_mix_nonneg hwf hs hn hmix
  obtain ⟨p, hp, hlo, hhi, r, hr, hrpos⟩ := hpos
  obtain ⟨-, hc, -⟩ := wellFormed_build hwf hs
  have hmem := hl.mem hc hlo hhi
  rw [intermediateRaw_of_mix hc hp hr] at hmem
  obtain ⟨hwarm, hcold⟩ := (scaleMax_spec l).2.1 _ hmem
  have hm : 0 < scaleMax l := hrpos.elim (fun h => h.trans_le hwarm) fun h => h.trans_le hcold
  exact ⟨_, hok.trans (buildPhases_of_pos hm)⟩

/-- R8, R101: a well-formed configuration has a point at some intermediate temperature. -/
theorem exists_intermediate_point (hwf : c.wellFormed = true) (hs : c.source = .build b) :
    ∃ p ∈ b.chroma, c.tWarm < p.t ∧ p.t < c.tCold := by
  obtain ⟨-, hc, hlo, hhi⟩ := wellFormed_build hwf hs
  have hgap : 2 ≤ c.tCold - c.tWarm := by
    simp only [Cfg.wellFormed, Cfg.temperaturesOk, Bool.and_eq_true, decide_eq_true_eq] at hwf
    tauto
  obtain ⟨p, -, hp, hpt⟩ := chromaLookup_inRange hc (t := c.tWarm + 1) (by omega) (by omega)
  exact ⟨p, hp, by omega, by omega⟩

/-- Settles O59: a bad raw value by the builder's inversion, a table by its positive maximum, and the reference mix by which
targets lie between the LEDs. -/
theorem badRawValueRefusesTheConfiguration : Obligations.BadRawValueRefusesTheConfiguration := by
  refine ⟨?_, fun c b hwf hs hn => exists_build_of_mix hwf hs hn, fun c b hwf hs hn href => ⟨fun hbetween => ?_, ?_⟩⟩
  · rintro c b t p hwf hs hlo hhi hp rfl hbad
    refine build_of_bad_mix hwf hs hp hlo hhi fun r hr => ?_
    rcases hbad with hnone | ⟨r', hr', hneg⟩
    · rw [hnone] at hr
      cases hr
    · obtain rfl := Option.some.inj (hr'.symm.trans hr)
      exact hneg
  · obtain ⟨hlumWarm, hlumCold⟩ := lumens_pos hwf hs
    obtain ⟨hyWarm, hyCold⟩ := led_y_pos hwf hs
    have hmix : ∀ p ∈ b.chroma, c.tWarm < p.t → p.t < c.tCold →
        ∃ r, rawMix b (mixInput c.pwmMax b p) = some r ∧ 0 ≤ r.warm ∧ 0 < r.cold := fun p hp hlo hhi => by
      rw [rawMix_reference_exact hn href]
      exact referenceMix_nonneg (pwmMax_pos hwf) hlumWarm hlumCold hyWarm hyCold (hbetween p hp hlo hhi)
    refine exists_build_of_mix hwf hs hn (fun p hp hlo hhi => ?_) ?_
    · obtain ⟨r, hr, hwarm, hcold⟩ := hmix p hp hlo hhi
      exact ⟨r, hr, hwarm, hcold.le⟩
    · obtain ⟨p, hp, hlo, hhi⟩ := exists_intermediate_point hwf hs
      obtain ⟨r, hr, -, hcold⟩ := hmix p hp hlo hhi
      exact ⟨p, hp, hlo, hhi, r, hr, .inr hcold⟩
  · intro p hp hlo hhi hoff
    obtain ⟨hlumWarm, hlumCold⟩ := lumens_pos hwf hs
    obtain ⟨hyWarm, hyCold⟩ := led_y_pos hwf hs
    refine build_of_bad_mix hwf hs hp hlo hhi fun r hr => ?_
    rw [rawMix_reference_exact hn href] at hr
    exact referenceMix_negative (m := mixInput c.pwmMax b p) (pwmMax_pos hwf) hlumWarm hlumCold hyWarm hyCold hoff hr

end Reference

end Sys2Proof.Machine
end

section
/-! PROOFS. What an event can do (spec/10_state.md section 10, spec/20_memory.md R60): the effect of every handler, said once;
what no event writes; and the events that touch the mode, `LightingState` and the display. -/

namespace Sys2Proof.Machine

variable {s t : State} {i : Instr} {m : Mode} {v : Int}

/-! ### The effects -/

/-- A value of `LightingState` written for a mode, both modules driven, and the display rewritten if the mode is the active
one (R157, R221). -/
def State.relit (s : State) (m : Mode) (v : Int) : State :=
  { s.setValue m v with
    pwm := Pwm.both (lightDuty s.cfg s.dt (s.setValue m v).colorTemp (s.setValue m v).intensity)
    disp := if s.mode = m then render v (policyOf m) else s.disp }

/-- The lighting keys, with the mode whose value they write and that value (R212 to R214). -/
inductive LightingKey (s : State) : Instr → Mode → Int → Prop where
  | b : LightingKey s .keyB .intensity (intensityNext s.intensity)
  | c : LightingKey s .keyC .color (max s.cfg.colorMin (s.colorTemp - 1))
  | d : LightingKey s .keyD .color (min s.cfg.colorMax (s.colorTemp + 1))

/-- The auxiliary keys, with their character and the two percentages they leave, cold first (R215 to R218). -/
inductive AuxKey (s : State) : Instr → BitVec 8 → Int → Int → Prop where
  | q : AuxKey s .keyQ 0x71 (pctUp s.auxColdPct) s.auxWarmPct
  | a : AuxKey s .keyA 0x61 (pctDown s.auxColdPct) s.auxWarmPct
  | w : AuxKey s .keyW 0x77 s.auxColdPct (pctUp s.auxWarmPct)
  | s : AuxKey s .keyS 0x73 s.auxColdPct (pctDown s.auxWarmPct)

/-- The state an auxiliary key leaves (R219). -/
def State.auxiliary (s : State) (key : BitVec 8) (cold warm : Int) : State :=
  ({ s with auxColdPct := cold, auxWarmPct := warm } : State).auxOutput key

/-- The events whose handlers drive the modules, and which alone can fault (R231). -/
def DrivesModules : Instr → Prop
  | .encEdge _ | .keyB | .keyC | .keyD => True
  | _ => False

/-- The active counter after direction `d` (R155). -/
def State.counterAfter (s : State) (d : Int) : Int := rawAfter (modeRange s.cfg s.mode) (s.rawOf s.mode) d

/-- Everything the handler of an event can do to a state. -/
inductive Effect (s : State) : Instr → State → Prop where
  | unchanged (i : Instr) : Effect s i s
  | latch (ab : BitVec 2) : Effect s (.encEdge ab) (s.latch ab)
  | move (ab : BitVec 2) (d : Int) : Effect s (.encEdge ab) ((s.latch ab).setRaw s.mode (s.counterAfter d))
  | emission (ab : BitVec 2) (d : Int) (h : (modeRange s.cfg s.mode).div ∣ s.counterAfter d) :
    Effect s (.encEdge ab)
      (((s.latch ab).setRaw s.mode (s.counterAfter d)).relit s.mode (s.counterAfter d / (modeRange s.cfg s.mode).div))
  | press (h : s.debState = .idle) : Effect s (.btnEdge .press) s.pressInIdle
  | debTick (l : Level) : Effect s (.debTick l) (debTick l s)
  | scanTick : Effect s .scanTick (scanTick s)
  | lightingKey {i : Instr} {m : Mode} {v : Int} (h : LightingKey s i m v) : Effect s i (s.relit m v)
  | auxKey {i : Instr} {key : BitVec 8} {cold warm : Int} (h : AuxKey s i key cold warm) :
    Effect s i (s.auxiliary key cold warm)
  | fault {i : Instr} (f : Fault) (hi : DrivesModules i) (hs : ¬ s.Inv) : Effect s i (s.raise f)

/-! ### The handlers have these effects -/

theorem exec_of_lightingKey (h : LightingKey s i m v) :
    exec i s = .next (s.commit (afterLightingChange m (s.setValue m v))) := by
  cases h <;> rfl

theorem exec_of_auxKey {key : BitVec 8} {cold warm : Int} (h : AuxKey s i key cold warm) :
    exec i s = .next (s.auxiliary key cold warm) := by
  cases h <;> rfl

theorem LightingKey.drivesModules (h : LightingKey s i m v) : DrivesModules i := by
  cases h <;> trivial

/-- A lighting key writes a value of its mode's range (R212 to R214). -/
theorem LightingKey.mem_range (h : LightingKey s i m v) (hs : s.Inv) :
    (modeRange s.cfg m).lo ≤ v ∧ v ≤ (modeRange s.cfg m).hi := by
  have hlo := hs.colorLo
  have hhi := hs.colorHi
  cases h
  case b => exact intensityNext_mem hs.intensityLo hs.intensityHi
  all_goals
    simp only [modeRange]
    omega

theorem afterLightingChange_ok_relit (h : afterLightingChange m (s.setValue m v) = .ok t) : t = s.relit m v := by
  rw [afterLightingChange_ok h]
  by_cases hm : s.mode = m
  · subst hm
    simp [State.relit]
  · simp [State.relit, hm, Ne.symm hm]

theorem emit_ok_relit (h : emit v s = .ok t) : t = s.relit s.mode v := by
  rw [emit_ok h]
  simp [State.relit]

theorem lightingKey_effect (h : LightingKey s i m v) : ∃ t, exec i s = .next t ∧ Effect s i t := by
  rw [exec_of_lightingKey h]
  rcases hr : afterLightingChange m (s.setValue m v) with f | t
  · refine ⟨_, rfl, .fault f h.drivesModules fun hs => ?_⟩
    obtain ⟨hlo, hhi⟩ := h.mem_range hs
    rw [afterLightingChange_setValue hs.valuesInRange hlo hhi] at hr
    cases hr
  · exact ⟨_, rfl, afterLightingChange_ok_relit hr ▸ .lightingKey h⟩

/-- R152 to R157: an encoder edge latches, moves the counter, emits, or faults out of range. -/
theorem encEdge_effect (ab : BitVec 2) : Effect s (.encEdge ab) (s.commit (encEdge ab s)) := by
  by_cases hd : dir s.cfg.polarity (transition s.prevAb ab) = 0
  · rw [encEdge_of_dir_eq_zero hd]
    exact .latch ab
  by_cases hdvd : (modeRange s.cfg s.mode).div ∣ s.counterAfter (dir s.cfg.polarity (transition s.prevAb ab))
  · rcases hr : encEdge ab s with f | t
    · refine .fault f trivial fun hs => ?_
      obtain ⟨t, ht, -⟩ := encEdge_latches hs ab
      rw [hr] at ht
      cases ht
    · rw [encEdge_of_dir_ne_zero hd] at hr
      have hemit := (if_pos (Int.emod_eq_zero_of_dvd hdvd)).symm.trans hr
      rw [State.commit_ok, emit_ok_relit hemit, State.setRaw_mode]
      exact .emission ab _ hdvd
  · rw [encEdge_of_dir_ne_zero hd, encMove_of_not_dvd (s := s.latch ab) hdvd]
    exact .move ab _

/-- Every event is taken, with one of the effects. -/
theorem exec_effect (i : Instr) (s : State) : ∃ t, exec i s = .next t ∧ Effect s i t := by
  cases i with
  | encEdge ab => exact ⟨_, rfl, encEdge_effect ab⟩
  | btnEdge e =>
    cases e with
    | release => exact ⟨_, rfl, .unchanged _⟩
    | press =>
      rw [exec_btnEdge]
      by_cases h : s.debState = .idle
      · exact ⟨_, rfl, btnEdge_press_of_idle h ▸ .press h⟩
      · exact ⟨_, rfl, (btnEdge_press_of_ne_idle h).symm ▸ .unchanged _⟩
  | debTick l => exact ⟨_, rfl, .debTick l⟩
  | scanTick => exact ⟨_, rfl, .scanTick⟩
  | keyH | keyOther => exact ⟨_, rfl, .unchanged _⟩
  | keyB => exact lightingKey_effect .b
  | keyC => exact lightingKey_effect .c
  | keyD => exact lightingKey_effect .d
  | keyQ => exact ⟨_, rfl, .auxKey .q⟩
  | keyA => exact ⟨_, rfl, .auxKey .a⟩
  | keyW => exact ⟨_, rfl, .auxKey .w⟩
  | keyS => exact ⟨_, rfl, .auxKey .s⟩

theorem effect_of_exec (h : exec i s = .next t) : Effect s i t := by
  obtain ⟨t', ht', heff⟩ := exec_effect i s
  exact Host.Outcome.next.inj (ht'.symm.trans h) ▸ heff

/-! ### What no event writes -/

/-- The elements no handler writes (R42, with the model's own). -/
def State.unwritten (s : State) : Cfg × DutyTable × Phase × Option Reason × List EventWord × BootStep :=
  (s.cfg, s.dt, s.phase, s.refused, s.inputs, s.bootNext)

theorem Effect.unwritten_eq (h : Effect s i t) : t.unwritten = s.unwritten := by
  cases h with
  | emission | lightingKey => simp [State.unwritten, State.relit, State.latch]
  | move | press => simp [State.unwritten, State.latch, State.pressInIdle]
  | unchanged | latch | debTick | scanTick | auxKey | fault => rfl

theorem State.unwritten_eq_iff : t.unwritten = s.unwritten ↔
    t.cfg = s.cfg ∧ t.dt = s.dt ∧ t.phase = s.phase ∧ t.refused = s.refused ∧ t.inputs = s.inputs ∧ t.bootNext = s.bootNext := by
  simp [State.unwritten]

/-- A handler that raises a fault writes nothing else (R230). -/
theorem Effect.fault_cases (h : Effect s i t) : t.fault = s.fault ∨ t = { s with fault := t.fault } := by
  cases h with
  | emission | lightingKey => exact .inl (by simp [State.relit, State.latch])
  | move => exact .inl (by simp [State.latch])
  | press => exact .inl (by simp [State.pressInIdle])
  | unchanged | latch | debTick | scanTick | auxKey => exact .inl rfl
  | fault => exact .inr rfl

/-! ### The mode, `LightingState` and the display -/

/-- The elements of a state that a change of `LightingState` reads, beside the written value. -/
def State.lit (s : State) : Cfg × DutyTable × Mode × Int × Int × Disp :=
  (s.cfg, s.dt, s.mode, s.colorTemp, s.intensity, s.disp)

/-- An event leaves the mode, both values and the display alone; or it is a press taken in IDLE; or it is an encoder edge that
emits the active mode's value or a lighting key, which rewrites one value from a state with the same values. -/
theorem Effect.lit_cases (h : Effect s i t) :
    t.lit = s.lit ∨ (i = .btnEdge .press ∧ s.debState = .idle ∧ t = s.pressInIdle) ∨
      ∃ (u : State) (m : Mode) (v : Int), u.lit = s.lit ∧ t = u.relit m v ∧
        ((∃ ab, i = .encEdge ab) ∧ m = s.mode ∨ LightingKey s i m v) := by
  cases h with
  | unchanged | latch | debTick | scanTick | auxKey | fault => exact .inl rfl
  | move => exact .inl (by simp [State.lit, State.latch])
  | press hidle => exact .inr (.inl ⟨rfl, hidle, rfl⟩)
  | emission ab d =>
    exact .inr (.inr ⟨_, s.mode, _, by simp [State.lit, State.latch], rfl, .inl ⟨⟨ab, rfl⟩, rfl⟩⟩)
  | lightingKey hkey => exact .inr (.inr ⟨s, _, _, rfl, rfl, .inr hkey⟩)

theorem State.lit_eq_iff : t.lit = s.lit ↔ t.cfg = s.cfg ∧ t.dt = s.dt ∧ t.mode = s.mode ∧ t.colorTemp = s.colorTemp ∧
    t.intensity = s.intensity ∧ t.disp = s.disp := by
  simp [State.lit]

theorem State.valueOf_eq_of_lit (h : t.lit = s.lit) : t.valueOf m = s.valueOf m := by
  obtain ⟨-, -, -, hcolor, hintensity, -⟩ := State.lit_eq_iff.1 h
  cases m
  case intensity => exact hintensity
  case color => exact hcolor

@[simp] theorem State.relit_mode (n : Mode) : (s.relit n v).mode = s.mode := by simp [State.relit]

theorem State.relit_disp (n : Mode) : (s.relit n v).disp = if s.mode = n then render v (policyOf n) else s.disp := rfl

theorem State.relit_valueOf_self (n : Mode) : (s.relit n v).valueOf n = v := by cases n <;> rfl

theorem State.relit_valueOf_of_ne {n : Mode} (h : m ≠ n) : (s.relit n v).valueOf m = s.valueOf m := by
  cases m <;> cases n
  case intensity.intensity | color.color => exact absurd rfl h
  case intensity.color | color.intensity => rfl

/-- R137: both modules hold the duties of the values the change leaves. -/
theorem State.relit_pwm (n : Mode) : (s.relit n v).pwm = Pwm.both (lightDuty (s.relit n v).cfg (s.relit n v).dt
    (s.relit n v).colorTemp (s.relit n v).intensity) := by
  simp [State.relit]

@[simp] theorem State.pressInIdle_mode : s.pressInIdle.mode = s.mode.toggle := by simp [State.pressInIdle]

@[simp] theorem State.pressInIdle_valueOf : s.pressInIdle.valueOf m = s.valueOf m := by
  cases hm : s.mode <;> cases m <;> simp [State.pressInIdle, State.valueOf]

/-- R172: a press shows the new mode's value under its policy. -/
theorem State.pressInIdle_disp :
    s.pressInIdle.disp = render (s.pressInIdle.valueOf s.pressInIdle.mode) (policyOf s.pressInIdle.mode) := by
  rw [State.pressInIdle_valueOf]
  cases hm : s.mode <;> simp [State.pressInIdle, State.valueOf, Mode.toggle, hm]

/-- The events that write the value of mode `m`: the lighting keys of that mode, and an encoder edge in that mode (R23). -/
theorem Effect.writer_of_valueOf_ne (h : Effect s i t) (hne : t.valueOf m ≠ s.valueOf m) :
    ∃ u v, State.lit u = s.lit ∧ t = u.relit m v ∧ ((∃ ab, i = .encEdge ab) ∧ s.mode = m ∨ LightingKey s i m v) := by
  rcases h.lit_cases with hlit | ⟨-, -, rfl⟩ | ⟨u, n, v, hu, rfl, hi⟩
  · exact absurd (State.valueOf_eq_of_lit hlit) hne
  · exact absurd State.pressInIdle_valueOf hne
  · obtain rfl : m = n := by
      by_contra hmn
      exact hne ((State.relit_valueOf_of_ne hmn).trans (State.valueOf_eq_of_lit hu))
    exact ⟨u, v, hu, rfl, hi.imp_left fun ⟨hab, hm⟩ => ⟨hab, hm.symm⟩⟩

/-- Settles O43: a changed value was rewritten by an edge in its mode or by one of its mode's keys. -/
theorem lightingStateWriters : Obligations.LightingStateWriters := by
  intro i s t ht
  have heff := effect_of_exec ht
  constructor
  · intro hne
    obtain ⟨u, v, -, -, hedge | hkey⟩ := heff.writer_of_valueOf_ne (m := .intensity) hne
    · exact .inl hedge
    · cases hkey
      exact .inr rfl
  · intro hne
    obtain ⟨u, v, -, -, hedge | hkey⟩ := heff.writer_of_valueOf_ne (m := .color) hne
    · exact .inl hedge
    · cases hkey
      exacts [.inr (.inl rfl), .inr (.inr rfl)]

/-- Settles O35: the rewriting of a value drives both modules. -/
theorem lightingChangeDrivesBothModules : Obligations.LightingChangeDrivesBothModules := by
  intro i s t ht hne
  obtain ⟨m, hm⟩ : ∃ m, t.valueOf m ≠ s.valueOf m := hne.elim (⟨.color, ·⟩) (⟨.intensity, ·⟩)
  obtain ⟨u, v, -, rfl, -⟩ := (effect_of_exec ht).writer_of_valueOf_ne hm
  exact State.relit_pwm m

/-- Settles O44: the value shown changes by a press, which shows the new mode's, or by the rewriting of the active mode's. -/
theorem displayFollowsTheActiveValue : Obligations.DisplayFollowsTheActiveValue := by
  intro i s t ht
  rcases (effect_of_exec ht).lit_cases with hlit | ⟨rfl, -, rfl⟩ | ⟨u, m, v, hu, rfl, hi⟩
  · obtain ⟨-, -, hmode, -, -, hdisp⟩ := State.lit_eq_iff.1 hlit
    exact ⟨fun h => absurd h (by simp [hmode, State.valueOf_eq_of_lit hlit]), fun h => absurd hdisp h⟩
  · exact ⟨fun _ => State.pressInIdle_disp, fun _ => .inr (.inl rfl)⟩
  · obtain ⟨-, -, hmode, -⟩ := State.lit_eq_iff.1 hu
    refine ⟨fun h => ?_, fun _ => ?_⟩
    · rw [State.relit_mode] at h ⊢
      have hm : u.mode = m := by
        by_contra hne
        rw [State.relit_valueOf_of_ne hne, State.valueOf_eq_of_lit hu, hmode] at h
        exact h.elim (absurd rfl) (absurd rfl)
      rw [hm, State.relit_valueOf_self, State.relit_disp, if_pos hm]
    · rcases hi with ⟨hab, -⟩ | hkey
      · exact .inl hab
      · cases hkey
        exacts [.inr (.inr (.inl rfl)), .inr (.inr (.inr (.inl rfl))), .inr (.inr (.inr (.inr rfl)))]

/-! ### The counters -/

/-- R159: an event leaves the inactive mode's counter alone, or it is a press taken in IDLE. -/
theorem Effect.rawOf_inactive (h : Effect s i t) (hm : m ≠ s.mode) :
    t.rawOf m = s.rawOf m ∨ i = .btnEdge .press ∧ s.debState = .idle ∧ t.mode = s.mode.toggle := by
  cases h with
  | unchanged | latch | debTick | scanTick | auxKey | fault => exact .inl (by cases m <;> rfl)
  | press hidle => exact .inr ⟨rfl, hidle, State.pressInIdle_mode⟩
  | move | emission | lightingKey =>
    left
    cases m <;> simp [State.rawOf, State.relit, State.latch, Ne.symm hm]

/-- Settles O14: the counter of the mode that is not active. -/
theorem inactiveCounterKeepsItsValue : Obligations.InactiveCounterKeepsItsValue := by
  intro i s t ht
  have heff := effect_of_exec ht
  constructor
  · intro hm hne
    obtain ⟨hi, hidle, hmode⟩ := (heff.rawOf_inactive (m := .color) (by simp [hm])).resolve_left hne
    exact ⟨hi, hidle, by rw [hmode, hm, Mode.toggle]⟩
  · intro hm hne
    obtain ⟨hi, hidle, hmode⟩ := (heff.rawOf_inactive (m := .intensity) (by simp [hm])).resolve_left hne
    exact ⟨hi, hidle, by rw [hmode, hm, Mode.toggle]⟩

/-! ### The writers by trigger -/

/-- Settles O41: the effects of each trigger's events write those fields only; the effects of the other triggers are excluded
by the event. -/
theorem writersByTrigger : Obligations.WritersByTrigger := by
  intro i s t ht
  cases effect_of_exec ht with
  | unchanged => exact ⟨fun _ => rfl, fun _ => rfl, fun _ => rfl, fun _ _ => rfl⟩
  | latch => exact ⟨fun _ => rfl, nofun, nofun, nofun⟩
  | move ab d =>
    refine ⟨fun _ => ?_, nofun, nofun, nofun⟩
    cases s.mode <;> rfl
  | emission | press => exact ⟨fun _ => by simp [State.relit, State.latch, State.pressInIdle], nofun, nofun, nofun⟩
  | debTick l => exact ⟨nofun, nofun, fun _ => rfl, fun _ h => absurd rfl (h l)⟩
  | scanTick => exact ⟨nofun, fun _ => rfl, nofun, nofun⟩
  | lightingKey hkey => cases hkey <;> exact ⟨nofun, nofun, nofun, fun _ _ => rfl⟩
  | auxKey hkey => cases hkey <;> exact ⟨nofun, nofun, nofun, fun _ _ => rfl⟩
  | fault f hi =>
    cases i with
    | encEdge => exact ⟨fun _ => rfl, nofun, nofun, nofun⟩
    | keyB | keyC | keyD => exact ⟨nofun, nofun, nofun, fun _ _ => rfl⟩
    | _ => exact hi.elim

end Sys2Proof.Machine
end

section
/-! PROOFS. Whole-machine rules (spec/10_state.md, spec/20_memory.md, spec/60_exceptions.md): every step keeps the invariant,
from the effects of the events and of the boot steps; what a step writes; and which states take events. -/

namespace Sys2Proof.Machine

variable {s t : State} {i : Instr} {m : Mode} {v : Int} {w : EventWord} {rest : List EventWord}

/-! ### The operations keep the invariant -/

theorem State.Inv.withInputs (h : s.Inv) (ws : List EventWord) : ({ s with inputs := ws } : State).Inv := { h with }

theorem State.Inv.withRefused (h : s.Inv) (r : Reason) : (s.refuse r).Inv := { h with }

theorem State.Inv.latch (h : s.Inv) (ab : BitVec 2) : (s.latch ab).Inv := { h with }

theorem State.Inv.setRaw (h : s.Inv) (hlo : (modeRange s.cfg m).lo * (modeRange s.cfg m).div ≤ v)
    (hhi : v ≤ (modeRange s.cfg m).hi * (modeRange s.cfg m).div) : (s.setRaw m v).Inv := by
  cases m
  case intensity => exact { h with rawIntensityLo := hlo, rawIntensityHi := hhi }
  case color => exact { h with rawColorLo := hlo, rawColorHi := hhi }

/-- R155: the clamped counter stays in the range of its mode. -/
theorem State.Inv.counterAfter_mem (h : s.Inv) (d : Int) :
    (modeRange s.cfg s.mode).lo * (modeRange s.cfg s.mode).div ≤ s.counterAfter d ∧
      s.counterAfter d ≤ (modeRange s.cfg s.mode).hi * (modeRange s.cfg s.mode).div := by
  obtain ⟨hlo, hhi⟩ := h.valuesInRange s.mode
  exact clamp_mem (Int.mul_le_mul_of_nonneg_right (hlo.trans hhi) (modeRange_div_pos h.cfgWf _).le)

theorem State.Inv.withDisp (h : s.Inv) (v : Int) (p : Policy) : (s.setDisplayValue v p).Inv :=
  { h with noPointLeft := (render_ne_dp v p).1, noPointRight := (render_ne_dp v p).2 }

theorem State.Inv.setValue (h : s.Inv) (hlo : (modeRange s.cfg m).lo ≤ v) (hhi : v ≤ (modeRange s.cfg m).hi) :
    (s.setValue m v).Inv := by
  cases m
  case intensity => exact { h with intensityLo := hlo, intensityHi := hhi }
  case color => exact { h with colorLo := hlo, colorHi := hhi }

/-- A value in its mode's range, written out, keeps the invariant (R157, R221). -/
theorem State.Inv.relit (h : s.Inv) (hlo : (modeRange s.cfg m).lo ≤ v) (hhi : v ≤ (modeRange s.cfg m).hi) :
    (s.relit m v).Inv := by
  have hval := h.setValue hlo hhi
  have hduty : (s.relit m v).pwm.m0.InRange (s.relit m v).cfg.pwmMax ∧ (s.relit m v).pwm.m1.InRange (s.relit m v).cfg.pwmMax := by
    have hlit := lightDuty_inRange (pwmMax_pos hval.cfgWf).le (s.relit m v).dt (s.relit m v).colorTemp (s.relit m v).intensity
    rw [State.relit_pwm]
    exact ⟨hlit, hlit⟩
  have hdisp : (s.relit m v).disp.left ≠ .dp ∧ (s.relit m v).disp.right ≠ .dp := by
    rw [State.relit_disp]
    split
    exacts [render_ne_dp v _, ⟨h.noPointLeft, h.noPointRight⟩]
  exact { hval with pwm0 := hduty.1, pwm1 := hduty.2, noPointLeft := hdisp.1, noPointRight := hdisp.2 }

theorem State.Inv.pressInIdle (h : s.Inv) : s.pressInIdle.Inv := by
  have hmode : ({ s with mode := s.mode.toggle } : State).Inv := { h with }
  obtain ⟨hlo, hhi⟩ := h.valuesInRange s.mode.toggle
  have hdiv := (modeRange_div_pos h.cfgWf s.mode.toggle).le
  have hraw := hmode.setRaw (m := s.mode.toggle)
    (Int.mul_le_mul_of_nonneg_right hlo hdiv) (Int.mul_le_mul_of_nonneg_right hhi hdiv)
  exact { hraw.withDisp _ _ with debCountLive := nofun }

/-- R8: `DEB_COUNT` is at least 1. -/
theorem State.Inv.one_le_cfg_debCount (h : s.Inv) : 1 ≤ s.cfg.debCount := by
  have hwf := h.cfgWf
  simp only [Cfg.wellFormed, Cfg.debCountOk, Bool.and_eq_true, decide_eq_true_eq] at hwf
  tauto

/-- R175 to R178: the countdown stays in `[0, DEB_COUNT]`, and at least 1 in DEBOUNCING. -/
theorem State.Inv.debTick (h : s.Inv) (l : Level) : (debTick l s).Inv := by
  have hcount := h.one_le_cfg_debCount
  have hnonneg : 0 ≤ s.cfg.debCount := by omega
  cases hd : s.debState with
  | idle => rwa [debTick_of_idle hd]
  | pressed =>
    rw [debTick_of_pressed hd]
    exact { h with debCountLo := hnonneg, debCountHi := le_rfl, debCountLive := fun _ => hcount }
  | debouncing =>
    have hlive := h.debCountLive hd
    have hhi := h.debCountHi
    by_cases hn : s.debCount = 1
    · cases l with
      | released =>
        rw [debTick_released_of_expiry hd hn]
        exact { h with debCountLo := le_rfl, debCountHi := hnonneg, debCountLive := nofun }
      | held =>
        rw [debTick_held_of_expiry hd hn]
        exact { h with debCountLo := hnonneg, debCountHi := le_rfl, debCountLive := fun _ => hcount }
    · rw [debTick_of_debouncing_of_ne_one hd hn]
      exact { h with
        debCountLo := show 0 ≤ s.debCount - 1 by omega
        debCountHi := show s.debCount - 1 ≤ s.cfg.debCount by omega
        debCountLive := fun _ => show 1 ≤ s.debCount - 1 by omega }

theorem selectOf_ne_both : ∀ k : BitVec 1, selectOf k ≠ 0b11 := by decide

theorem State.Inv.scanTick (h : s.Inv) : (scanTick s).Inv := { h with selOne := selectOf_ne_both _ }

/-- R215 to R218: the percentages an auxiliary key leaves are in `[0, 100]`. -/
theorem AuxKey.mem_range {key : BitVec 8} {cold warm : Int} (hkey : AuxKey s i key cold warm) (h : s.Inv) :
    (0 ≤ cold ∧ cold ≤ 100) ∧ 0 ≤ warm ∧ warm ≤ 100 := by
  obtain ⟨hcoldLo, hcoldHi, hwarmLo, hwarmHi⟩ : (0 ≤ s.auxColdPct ∧ s.auxColdPct ≤ 100 ∧ 0 ≤ s.auxWarmPct ∧ s.auxWarmPct ≤ 100) :=
    ⟨h.auxColdLo, h.auxColdHi, h.auxWarmLo, h.auxWarmHi⟩
  cases hkey <;> simp only [pctUp, pctDown] <;> omega

/-- R219: the drawn registers are in `[0, PWM_MAX]`. -/
theorem auxiliary_pwm_inRange (hp : 0 ≤ s.cfg.pwmMax) (key : BitVec 8) (cold warm : Int) :
    (s.auxiliary key cold warm).pwm.m0.InRange s.cfg.pwmMax ∧ (s.auxiliary key cold warm).pwm.m1.InRange s.cfg.pwmMax := by
  have hdraw : ∀ j k, (⟨freeDuty s.cfg key j, freeDuty s.cfg key k⟩ : Duty).InRange s.cfg.pwmMax := fun j k =>
    ⟨(freeDuty_mem hp key j).1, (freeDuty_mem hp key j).2, (freeDuty_mem hp key k).1, (freeDuty_mem hp key k).2⟩
  exact ⟨hdraw _ _, hdraw _ _⟩

theorem State.Inv.auxiliary {key : BitVec 8} {cold warm : Int} (h : s.Inv) (hkey : AuxKey s i key cold warm) :
    (s.auxiliary key cold warm).Inv := by
  obtain ⟨⟨hcoldLo, hcoldHi⟩, hwarmLo, hwarmHi⟩ := hkey.mem_range h
  obtain ⟨h0, h1⟩ := auxiliary_pwm_inRange (pwmMax_pos h.cfgWf).le key cold warm
  exact { h with
    pwm0 := h0
    pwm1 := h1
    auxColdLo := hcoldLo
    auxColdHi := hcoldHi
    auxWarmLo := hwarmLo
    auxWarmHi := hwarmHi }

/-- Every event keeps the invariant. -/
theorem Effect.keeps_inv (heff : Effect s i t) (h : s.Inv) : t.Inv := by
  cases heff with
  | unchanged => exact h
  | latch ab => exact h.latch ab
  | move ab d =>
    obtain ⟨hlo, hhi⟩ := h.counterAfter_mem d
    exact (h.latch ab).setRaw hlo hhi
  | emission ab d hdvd =>
    obtain ⟨hlo, hhi⟩ := h.counterAfter_mem d
    have hdiv := modeRange_div_pos h.cfgWf s.mode
    refine ((h.latch ab).setRaw hlo hhi).relit ?_ ?_ <;> rw [State.setRaw_cfg]
    · exact (Int.le_ediv_iff_mul_le hdiv).2 hlo
    · exact Int.ediv_le_of_le_mul hdiv hhi
  | press => exact h.pressInIdle
  | debTick l => exact h.debTick l
  | scanTick => exact h.scanTick
  | lightingKey hkey =>
    obtain ⟨hlo, hhi⟩ := hkey.mem_range h
    exact h.relit hlo hhi
  | auxKey hkey => exact h.auxiliary hkey
  | fault f hi hs => exact absurd h hs

/-- Settles O47: an event keeps the invariant, which has no fault, and writes no refusal. -/
theorem noEventFaults : Obligations.NoEventFaults := by
  intro i s hs
  obtain ⟨t, ht, heff⟩ := exec_effect i s
  obtain ⟨-, -, -, hrefused, -⟩ := State.unwritten_eq_iff.1 heff.unwritten_eq
  exact ⟨t, ht, (heff.keeps_inv hs).noFault, hrefused⟩

/-! ### The boot steps -/

/-- Everything a boot step can do (R261 to R265). -/
inductive BootEffect (s : State) : State → Prop where
  | table (hn : s.bootNext = .build) (dt : DutyTable) (hwf : s.cfg.wellFormed = true) (hb : build s.cfg = .ok dt) :
    BootEffect s { s with dt := dt, bootNext := .lighting }
  | drive : BootEffect s { s with
      pwm := Pwm.both (lightDuty s.cfg s.dt s.colorTemp s.intensity), bootNext := .display }
  | display : BootEffect s { s.showActive with bootNext := .diagnostics }
  | diagnostics : BootEffect s { s with bootNext := .enterReady }
  | ready : BootEffect s { s with phase := .ready }
  | refuse (r : Reason) : BootEffect s (s.refuse r)
  | fault (f : Fault) (hs : ¬ s.Inv) : BootEffect s (s.raise f)

theorem bootBuild_of_ok {dt : DutyTable} (hwf : s.cfg.wellFormed = true) (hb : build s.cfg = .ok dt) :
    bootBuild s = { s with dt := dt, bootNext := .lighting } := by
  simp [bootBuild, hwf, hb]

theorem bootBuild_effect (hn : s.bootNext = .build) : BootEffect s (bootBuild s) := by
  by_cases hwf : s.cfg.wellFormed = true
  · rcases hb : build s.cfg with (f | r) | dt
    · exact absurd hb (builderNeverFaults s.cfg f hwf)
    · exact bootBuild_of_build_refusal hwf hb ▸ .refuse r
    · exact bootBuild_of_ok hwf hb ▸ .table hn dt hwf hb
  · exact bootBuild_of_illFormed (Bool.eq_false_iff.2 hwf) ▸ .refuse _

theorem bootLighting_effect : BootEffect s (bootLighting s) := by
  unfold bootLighting
  rcases hr : driveBoth { s with bootNext := .display } with f | t
  · refine .fault f fun hs => ?_
    have hok := driveBoth_inRange (s := { s with bootNext := .display }) hs.intensityLo hs.intensityHi hs.colorLo hs.colorHi
    cases hok.symm.trans hr
  · obtain ⟨-, rfl⟩ := driveBoth_ok_iff.1 hr
    exact .drive

theorem bootOnce_effect (s : State) : BootEffect s (bootOnce s) := by
  unfold bootOnce
  split
  next hn => exact bootBuild_effect hn
  next => exact bootLighting_effect
  next => exact .display
  next => exact .diagnostics
  next => exact .ready

/-- Every boot step keeps the invariant; the table it writes is in range. -/
theorem BootEffect.keeps_inv (heff : BootEffect s t) (h : s.Inv) : t.Inv := by
  cases heff with
  | table hn dt hwf hb =>
    have htable := tableInRange_of_build hwf hb
    exact { h with dtWf := htable.wf, dtInRange := htable.inRange, dtOutside := htable.outside }
  | drive =>
    have hduty := lightDuty_inRange (pwmMax_pos h.cfgWf).le s.dt s.colorTemp s.intensity
    exact { h with pwm0 := hduty, pwm1 := hduty }
  | display => exact { h.withDisp (s.valueOf s.mode) (policyOf s.mode) with }
  | diagnostics | ready => exact { h with }
  | refuse r => exact h.withRefused r
  | fault f hs => exact absurd h hs

/-- Settles O48: a boot step, an event after its word is taken off, the wait, and the refusal each keep the invariant. -/
theorem stepKeepsTheInvariant : Obligations.StepKeepsTheInvariant := by
  intro s t hs hstep
  obtain ⟨-, ⟨-, rfl⟩ | ⟨-, -, rfl⟩ | ⟨-, w, rest, i, -, -, hexec⟩ | ⟨-, w, rest, -, -, rfl⟩⟩ := step_next_cases hstep
  · exact (bootOnce_effect s).keeps_inv hs
  · exact hs
  · exact (effect_of_exec hexec).keeps_inv (hs.withInputs rest)
  · exact (hs.withInputs rest).withRefused .reservedEvent

end Sys2Proof.Machine
end

section
/-! PROOFS. Steps, reset and boot (spec/20_memory.md R60, spec/60_exceptions.md R230 to R254, spec/70_reset_and_hazards.md
R260 to R265): what a step answers, what it leaves unchanged, and the run from reset to READY. -/

namespace Sys2Proof.Machine

variable {s t : State} {i : Instr} {f : Fault} {w : EventWord} {rest : List EventWord}

/-! ### What a step answers -/

/-- R60: a state that takes events runs the event its next word spells. -/
theorem step_of_event (hs : s.takesEvents) (hw : s.inputs = w :: rest) (hd : decode w = .event i) :
    step s = exec i { s with inputs := rest } := by
  obtain ⟨hphase, hfault, hrefused⟩ := hs
  simp only [step, hfault, hrefused, hphase, takeEvent_cons hw, hd]

/-- R77: a state that takes events is refused by a reserved word. -/
theorem step_of_reserved (hs : s.takesEvents) (hw : s.inputs = w :: rest) (hd : decode w = .reserved) :
    step s = .next { s with inputs := rest, refused := some .reservedEvent } := by
  obtain ⟨hphase, hfault, hrefused⟩ := hs
  simp only [step, hfault, hrefused, hphase, takeEvent_cons hw, hd]

/-- R230: from a faulted state no step is taken. -/
theorem step_of_fault (hf : s.fault = some f) : step s = .fault f := by
  simp only [step, hf]

/-- Settles O4: the step's own split by fault, refusal, phase and word. -/
theorem stepRunsTheDecodedEvent : Obligations.StepRunsTheDecodedEvent := fun _ _ _ _ => step_of_event

/-- Settles O5: the words of the seven cases lie outside the sets that spell an event, and the step refuses them. -/
theorem reservedWordRefusesTheRun : Obligations.ReservedWordRefusesTheRun := by
  intro s w rest hs hw hkind
  have hd : decode w = .reserved := decode_eq_reserved_iff.2 (by unfold SpellsEvent; omega)
  exact ⟨hd, step_of_reserved hs hw hd⟩

/-- Settles O6: a fault is answered first, then a refusal. -/
theorem stoppedRunTakesNoEvent : Obligations.StoppedRunTakesNoEvent :=
  fun _ => ⟨fun _ => step_of_fault, fun _ => step_of_refused⟩

/-- Settles O7: the head word spells its event, every event is taken, and no event writes `inputs`. -/
theorem readyStateTakesEveryEvent : Obligations.ReadyStateTakesEveryEvent := by
  intro s i rest hs hi hw
  obtain ⟨t, ht, heff⟩ := exec_effect i { s with inputs := rest }
  obtain ⟨-, -, -, -, hinputs, -⟩ := State.unwritten_eq_iff.1 heff.unwritten_eq
  exact ⟨t, (step_of_event hs hw (decode_encode hi)).trans ht, hinputs⟩

/-! ### What a step leaves unchanged -/

/-- The elements no boot step writes, but those an event can write too. -/
theorem BootEffect.frame (h : BootEffect s t) : t.cfg = s.cfg ∧ t.mode = s.mode ∧ t.inputs = s.inputs := by
  cases h <;> exact ⟨rfl, rfl, rfl⟩

/-- R123, R261: only the builder's boot step writes the table, and it writes what `build` gives. -/
theorem BootEffect.dt_cases (h : BootEffect s t) : t.dt = s.dt ∨ s.bootNext = .build ∧ build s.cfg = .ok t.dt := by
  cases h with
  | table hn dt hwf hb => exact .inr ⟨hn, hb⟩
  | drive | display | diagnostics | ready | refuse | fault => exact .inl rfl

/-- A boot step that faults writes nothing else (R230). -/
theorem BootEffect.fault_cases (h : BootEffect s t) : t.fault = s.fault ∨ t = { s with fault := t.fault } := by
  cases h with
  | fault => exact .inr rfl
  | table | drive | display | diagnostics | ready | refuse => exact .inl rfl

/-- Settles O46: neither a boot step nor an event writes the configuration. -/
theorem configurationNeverChanges : Obligations.ConfigurationNeverChanges := by
  intro s t hstep
  obtain ⟨-, ⟨-, rfl⟩ | ⟨-, -, rfl⟩ | ⟨-, w, rest, i, -, -, hexec⟩ | ⟨-, w, rest, -, -, rfl⟩⟩ := step_next_cases hstep
  · exact (bootOnce_effect s).frame.1
  · rfl
  · exact (State.unwritten_eq_iff.1 (effect_of_exec hexec).unwritten_eq).1
  · rfl

/-- Settles O45: no event writes the table or the phase, and of the boot steps only the builder's writes the table. -/
theorem dutyTableIsReadOnlyAfterBoot : Obligations.DutyTableIsReadOnlyAfterBoot := by
  intro s t hstep
  obtain ⟨-, ⟨hphase, rfl⟩ | ⟨hphase, -, rfl⟩ | ⟨hphase, w, rest, i, -, -, hexec⟩ | ⟨hphase, w, rest, -, -, rfl⟩⟩ :=
    step_next_cases hstep
  · refine ⟨fun hready => ?_, fun hne => ⟨hphase, (bootOnce_effect s).dt_cases.resolve_left hne⟩⟩
    rw [hphase] at hready
    cases hready
  · exact ⟨fun _ => ⟨rfl, hphase, fun _ => rfl⟩, fun hne => absurd rfl hne⟩
  · obtain ⟨-, hdt, hkept, -⟩ := State.unwritten_eq_iff.1 (effect_of_exec hexec).unwritten_eq
    exact ⟨fun _ => ⟨hdt, hkept.trans hphase, fun u => by rw [hdt]⟩, fun hne => absurd hdt hne⟩
  · exact ⟨fun _ => ⟨rfl, hphase, fun _ => rfl⟩, fun hne => absurd rfl hne⟩

/-- Settles O42: of all steps only a press taken in IDLE writes the mode, and the press has one word. -/
theorem modeChangesOnlyByAPressInIdle : Obligations.ModeChangesOnlyByAPressInIdle := by
  intro s t hstep hne
  obtain ⟨⟨hfault, hrefused⟩, ⟨-, rfl⟩ | ⟨-, -, rfl⟩ | ⟨hphase, w, rest, i, hw, hd, hexec⟩ | ⟨-, w, rest, -, -, rfl⟩⟩ :=
    step_next_cases hstep
  · exact absurd (bootOnce_effect s).frame.2.1 hne
  · exact absurd rfl hne
  · rcases (effect_of_exec hexec).lit_cases with hlit | ⟨rfl, hidle, rfl⟩ | ⟨u, m, v, hu, rfl, -⟩
    · exact absurd (State.lit_eq_iff.1 hlit).2.2.1 hne
    · refine ⟨State.pressInIdle_mode, hidle, ⟨hphase, hfault, hrefused⟩, rest, ?_⟩
      rw [hw, (eq_encode_of_decode hd).1]
      rfl
    · exact absurd ((State.relit_mode m).trans (State.lit_eq_iff.1 hu).2.2.1) hne
  · exact absurd rfl hne

/-- Settles O32: which index fails and with which value, by `setLighting`'s own split; and the faults of handlers and boot
steps, which are taken before any write. -/
theorem lightingFaultsInOrder : Obligations.LightingFaultsInOrder := by
  refine ⟨fun s m ct i => ⟨fun hi => ?_, fun hlo hhi hct => ?_, fun f hf => by rw [hf]; rfl⟩, fun i s t ht hnone hsome => ?_,
    fun s t hstep hsome => ?_⟩
  · exact setLighting_error_iff.2 (.inl ⟨by omega, by omega, rfl⟩)
  · exact setLighting_error_iff.2 (.inr ⟨⟨hlo, hhi⟩, by omega, rfl⟩)
  · exact (effect_of_exec ht).fault_cases.resolve_left fun h => hsome (h.trans hnone)
  · obtain ⟨⟨hfault, -⟩, ⟨-, rfl⟩ | ⟨-, -, rfl⟩ | ⟨-, w, rest, i, -, -, hexec⟩ | ⟨-, w, rest, -, -, rfl⟩⟩ :=
      step_next_cases hstep
    · have h := (bootOnce_effect s).fault_cases.resolve_left fun h => hsome (h.trans hfault)
      rw [h]
    · rfl
    · have h := (effect_of_exec hexec).fault_cases.resolve_left fun h => hsome (h.trans hfault)
      rw [h]
    · exact absurd hfault hsome

/-! ### Boot takes no event -/

/-- Other words presented. -/
def State.presented (s : State) (ws : List EventWord) : State := { s with inputs := ws }

variable (ws : List EventWord)

theorem setLighting_presented (m : Module) (ct i : Int) :
    setLighting m ct i (s.presented ws) = (setLighting m ct i s).map (State.presented · ws) := by
  rcases hr : setLighting m ct i s with f | t
  · exact setLighting_error_iff.2 ((setLighting_error_iff (s := s)).1 hr)
  · obtain ⟨hrange, rfl⟩ := setLighting_ok_iff.1 hr
    exact setLighting_ok_iff.2 ⟨hrange, rfl⟩

theorem driveBoth_presented : driveBoth (s.presented ws) = (driveBoth s).map (State.presented · ws) := by
  have hcolor : (s.presented ws).colorTemp = s.colorTemp := rfl
  have hintensity : (s.presented ws).intensity = s.intensity := rfl
  unfold driveBoth
  rw [setLighting_presented, hcolor, hintensity]
  rcases setLighting .m0 s.colorTemp s.intensity s with f | t
  · rfl
  · exact setLighting_presented ws _ _ _

theorem State.commit_presented (r : Except Fault State) :
    (s.presented ws).commit (r.map (State.presented · ws)) = (s.commit r).presented ws := by
  cases r <;> rfl

theorem bootBuild_presented : bootBuild (s.presented ws) = (bootBuild s).presented ws := by
  have hcfg : (s.presented ws).cfg = s.cfg := rfl
  unfold bootBuild
  rw [hcfg]
  split
  · rcases build s.cfg with (f | r) | dt <;> rfl
  · rfl

theorem bootLighting_presented : bootLighting (s.presented ws) = (bootLighting s).presented ws :=
  (congrArg _ (driveBoth_presented (s := { s with bootNext := .display }) ws)).trans (State.commit_presented ws _)

/-- R235: a boot step does the same to everything else, whatever words are presented. -/
theorem bootOnce_presented : bootOnce (s.presented ws) = (bootOnce s).presented ws := by
  have hnext : (s.presented ws).bootNext = s.bootNext := rfl
  unfold bootOnce
  rw [hnext]
  cases s.bootNext with
  | build => exact bootBuild_presented ws
  | lighting => exact bootLighting_presented ws
  | display | diagnostics | enterReady => rfl

/-- Settles O8: in BOOT the step is a boot step, which keeps the presented words and does not read them. -/
theorem bootHoldsPresentedEvents : Obligations.BootHoldsPresentedEvents := by
  intro s ws hphase hfault hrefused
  have hother : step (s.presented ws) = .next (bootOnce (s.presented ws)) := step_of_boot hfault hrefused hphase
  rw [bootOnce_presented] at hother
  exact ⟨bootOnce s, step_of_boot hfault hrefused hphase, (bootOnce_effect s).frame.2.2, hother⟩

/-! ### Reset and the run of boot -/

/-- R260: after reset under a well-formed configuration every element is in range. -/
theorem resetWith_inv {c : Cfg} (hwf : c.wellFormed = true) : (State.resetWith c).Inv := by
  have hp := (pwmMax_pos hwf).le
  have htable := tableInRange_nil (lo := c.tWarm) (hi := c.tCold) hp
  have hparts := hwf
  simp only [Cfg.wellFormed, Cfg.initLightingOk, Cfg.initAuxOk, Cfg.divisorsOk, Cfg.debCountOk, Bool.and_eq_true,
    decide_eq_true_eq] at hparts
  obtain ⟨⟨⟨⟨⟨-, hdivIntensity, hdivColor⟩, hdeb⟩, ⟨⟨hintensityLo, hintensityHi⟩, hcolorLo⟩, hcolorHi⟩,
    ⟨⟨hcoldLo, hcoldHi⟩, hwarmLo⟩, hwarmHi⟩, -⟩ := hparts
  have hdivI : 0 ≤ c.divIntensity := by omega
  have hdivC : 0 ≤ c.divColor := by omega
  have hdebNonneg : 0 ≤ c.debCount := by omega
  exact {
    cfgWf := hwf
    colorLo := hcolorLo
    colorHi := hcolorHi
    intensityLo := hintensityLo
    intensityHi := hintensityHi
    rawIntensityLo := Int.mul_le_mul_of_nonneg_right hintensityLo hdivI
    rawIntensityHi := Int.mul_le_mul_of_nonneg_right hintensityHi hdivI
    rawColorLo := Int.mul_le_mul_of_nonneg_right hcolorLo hdivC
    rawColorHi := Int.mul_le_mul_of_nonneg_right hcolorHi hdivC
    debCountLo := le_rfl
    debCountHi := hdebNonneg
    debCountLive := nofun
    noPointLeft := nofun
    noPointRight := nofun
    selOne := show (0 : BitVec 2) ≠ 0b11 by decide
    pwm0 := duty_zero_inRange hp
    pwm1 := duty_zero_inRange hp
    auxColdLo := hcoldLo
    auxColdHi := hcoldHi
    auxWarmLo := hwarmLo
    auxWarmHi := hwarmHi
    dtWf := htable.wf
    dtInRange := htable.inRange
    dtOutside := htable.outside
    noFault := rfl }

/-- Settles O49: the installed configuration is well-formed by its type. -/
theorem resetMeetsTheInvariant : Obligations.ResetMeetsTheInvariant :=
  ⟨rfl, resetWith_inv Config.installed.wf, fun _ => resetWith_inv⟩

/-- One step of a run in BOOT is one boot step. -/
theorem run_succ_of_boot {n : Nat} (hf : s.fault = none) (hr : s.refused = none) (hp : s.phase = .boot) (hnext : bootOnce s = t) :
    Host.Core.run Sys2Proof.core (n + 1) s = Host.Core.run Sys2Proof.core n t := by
  have hstep : Sys2Proof.core.step s = .next (bootOnce s) := step_of_boot hf hr hp
  simp only [Host.Core.run, hstep, hnext]

/-- A state on its way through boot: what the boot steps have written, and the one that comes next. -/
def State.booting (s : State) (dt : DutyTable) (pwm : Pwm) (disp : Disp) (next : BootStep) : State :=
  { s with dt := dt, pwm := pwm, disp := disp, bootNext := next }

section BootSteps

variable {dt : DutyTable} {pwm : Pwm} {disp : Disp}

theorem bootOnce_of_build (hn : s.bootNext = .build) (hwf : s.cfg.wellFormed = true) (hb : build s.cfg = .ok dt) :
    bootOnce s = s.booting dt s.pwm s.disp .lighting := by
  simp only [bootOnce, hn, bootBuild_of_ok hwf hb, State.booting]

theorem bootOnce_of_lighting (hs : s.ValuesInRange) : bootOnce (s.booting dt pwm disp .lighting) =
    s.booting dt (Pwm.both (lightDuty s.cfg dt s.colorTemp s.intensity)) disp .display := by
  obtain ⟨hintensityLo, hintensityHi⟩ := hs .intensity
  obtain ⟨hcolorLo, hcolorHi⟩ := hs .color
  have hok := driveBoth_inRange (s := s.booting dt pwm disp .display) hintensityLo hintensityHi hcolorLo hcolorHi
  exact congrArg (State.commit _) hok

theorem bootOnce_of_display : bootOnce (s.booting dt pwm disp .display) =
    s.booting dt pwm (render (s.valueOf s.mode) (policyOf s.mode)) .diagnostics := rfl

theorem bootOnce_of_diagnostics : bootOnce (s.booting dt pwm disp .diagnostics) = s.booting dt pwm disp .enterReady := rfl

theorem bootOnce_of_enterReady : bootOnce (s.booting dt pwm disp .enterReady) =
    { s.booting dt pwm disp .enterReady with phase := .ready } := rfl

end BootSteps

/-- Settles O51: the five boot steps in order, each on the state the one before it left. -/
theorem bootReachesReady : Obligations.BootReachesReady := by
  intro c dt hwf hb
  have hvals := (resetWith_inv hwf).valuesInRange
  calc Host.Core.run Sys2Proof.core 5 (State.resetWith c)
      = Host.Core.run Sys2Proof.core 4 _ := run_succ_of_boot rfl rfl rfl (bootOnce_of_build rfl hwf hb)
    _ = Host.Core.run Sys2Proof.core 3 _ := run_succ_of_boot rfl rfl rfl (bootOnce_of_lighting hvals)
    _ = Host.Core.run Sys2Proof.core 2 _ := run_succ_of_boot rfl rfl rfl bootOnce_of_display
    _ = Host.Core.run Sys2Proof.core 1 _ := run_succ_of_boot rfl rfl rfl bootOnce_of_diagnostics
    _ = Host.Core.run Sys2Proof.core 0 _ := run_succ_of_boot rfl rfl rfl bootOnce_of_enterReady

end Sys2Proof.Machine
end

section
/-! PROOFS. Runs of encoder edges (spec/43_quadrature_encoder_decoder.md R155 to R163, spec/70_reset_and_hazards.md R276): what
an edge with motion leaves from a state in range, the divisor's edges, a step and its inverse, and that a lighting update
does not depend on the registers it finds (spec/46_key_commands.md R219). -/

namespace Sys2Proof.Machine

variable {s t : State} {ab : BitVec 2} {i : Instr} {m : Mode} {d v k : Int}

/-! ### Directions of successors and inverses -/

theorem dir_plus_nextCw : ∀ prev : BitVec 2, dir .plus (transition prev (nextCw prev)) = 1 := by decide

theorem dir_plus_inverse : ∀ prev ab : BitVec 2, dir .plus (transition ab prev) = -dir .plus (transition prev ab) := by decide

/-- The inverse transition has the opposite direction, under either polarity. -/
theorem dir_inverse (p : Polarity) (prev ab : BitVec 2) : dir p (transition ab prev) = -dir p (transition prev ab) := by
  cases p with
  | plus => exact dir_plus_inverse prev ab
  | minus => rw [dir_minus_eq_neg, dir_minus_eq_neg, dir_plus_inverse prev ab]

/-! ### The counter -/

theorem State.Inv.rawOf_mem (h : s.Inv) (m : Mode) :
    (modeRange s.cfg m).lo * (modeRange s.cfg m).div ≤ s.rawOf m ∧
      s.rawOf m ≤ (modeRange s.cfg m).hi * (modeRange s.cfg m).div := by
  cases m
  case intensity => exact ⟨h.rawIntensityLo, h.rawIntensityHi⟩
  case color => exact ⟨h.rawColorLo, h.rawColorHi⟩

/-- R155: a microstep the clamp does not absorb. -/
theorem rawAfter_of_mem {r : ModeRange} {raw : Int} (hlo : r.lo * r.div ≤ raw + d) (hhi : raw + d ≤ r.hi * r.div) :
    rawAfter r raw d = raw + d := by
  unfold rawAfter clamp
  omega

/-- R158: a microstep beyond the upper bound is absorbed. -/
theorem counterAfter_of_hi (h : s.Inv) (hd : 0 ≤ d)
    (hraw : s.rawOf s.mode = (modeRange s.cfg s.mode).hi * (modeRange s.cfg s.mode).div) :
    s.counterAfter d = (modeRange s.cfg s.mode).hi * (modeRange s.cfg s.mode).div := by
  have hrange := h.rawOf_mem s.mode
  unfold State.counterAfter rawAfter clamp
  omega

/-- R158: a microstep beyond the lower bound is absorbed. -/
theorem counterAfter_of_lo (h : s.Inv) (hd : d ≤ 0)
    (hraw : s.rawOf s.mode = (modeRange s.cfg s.mode).lo * (modeRange s.cfg s.mode).div) :
    s.counterAfter d = (modeRange s.cfg s.mode).lo * (modeRange s.cfg s.mode).div := by
  have hrange := h.rawOf_mem s.mode
  unfold State.counterAfter rawAfter clamp
  omega

/-- A counter strictly between two multiples of the divisor is no multiple (R156). -/
theorem not_dvd_mul_add {div j : Int} (hj : 0 < j) (hlt : j < div) : ¬ div ∣ k * div + j := by
  rw [Int.dvd_add_right (Int.dvd_mul_left k div)]
  exact fun hdvd => hlt.not_ge (Int.le_of_dvd hj hdvd)

/-! ### An edge with motion -/

/-- What an edge in direction `d` to the reading `ab` leaves (R153 to R157). -/
structure Moved (s : State) (ab : BitVec 2) (d : Int) (t : State) : Prop where
  inv : t.Inv
  cfg : t.cfg = s.cfg
  mode : t.mode = s.mode
  reading : t.prevAb = ab
  counter : t.rawOf s.mode = s.counterAfter d
  emitted : ∀ v, s.counterAfter d = v * (modeRange s.cfg s.mode).div →
    t.valueOf s.mode = v ∧ t.disp = render v (policyOf s.mode)
  quiet : ¬ (modeRange s.cfg s.mode).div ∣ s.counterAfter d → t.valueOf s.mode = s.valueOf s.mode

theorem State.relit_rawOf (m n : Mode) : (s.relit m v).rawOf n = s.rawOf n := by
  cases m <;> cases n <;> rfl

/-- An emission is a counter and a value written (R157). -/
theorem State.emitted_eq_relit : s.emitted v = (s.setRaw s.mode (v * (modeRange s.cfg s.mode).div)).relit s.mode v := by
  simp [State.emitted, State.relit]

theorem State.emitted_rawOf : (s.emitted v).rawOf s.mode = v * (modeRange s.cfg s.mode).div := by
  rw [State.emitted_eq_relit, State.relit_rawOf, State.setRaw_rawOf]

theorem State.emitted_valueOf : (s.emitted v).valueOf s.mode = v := by
  rw [State.emitted_eq_relit, State.relit_valueOf_self]

/-- R155 to R157: from a state in range an edge with motion is taken, and moves the active counter. -/
theorem exec_encEdge_moved (hs : s.Inv) (hd : dir s.cfg.polarity (transition s.prevAb ab) = d) (hne : d ≠ 0) :
    ∃ t, exec (.encEdge ab) s = .next t ∧ Moved s ab d t := by
  subst hd
  generalize hd : dir s.cfg.polarity (transition s.prevAb ab) = d at hne ⊢
  have hdiv := modeRange_div_pos hs.cfgWf s.mode
  have hexec : exec (.encEdge ab) s = .next (s.commit (encMove d (s.latch ab))) := by
    rw [exec_encEdge, ← hd, encEdge_of_dir_ne_zero (hd ▸ hne)]
  have hinv := (effect_of_exec hexec).keeps_inv hs
  refine ⟨_, hexec, ?_⟩
  by_cases hdvd : (modeRange s.cfg s.mode).div ∣ s.counterAfter d
  · obtain ⟨q, hq⟩ := hdvd
    have hraw : s.counterAfter d = q * (modeRange s.cfg s.mode).div := hq.trans (mul_comm _ _)
    obtain ⟨-, hmove⟩ := encMove_emits (s := s.latch ab) hs.valuesInRange hdiv hraw
    rw [hmove, State.commit_ok] at hinv ⊢
    refine ⟨hinv, by simp [State.emitted, State.latch], by simp [State.emitted, State.latch], State.emitted_prevAb,
      (State.emitted_rawOf (s := s.latch ab)).trans hraw.symm, fun v hv => ?_, fun h => absurd ⟨q, hq⟩ h⟩
    obtain rfl : q = v := Int.eq_of_mul_eq_mul_right hdiv.ne' (hraw.symm.trans hv)
    exact ⟨State.emitted_valueOf (s := s.latch ab), rfl⟩
  · have hmove : encMove d (s.latch ab) = .ok ((s.latch ab).setRaw s.mode (s.counterAfter d)) :=
      encMove_of_not_dvd (s := s.latch ab) hdvd
    rw [hmove, State.commit_ok] at hinv ⊢
    exact ⟨hinv, State.setRaw_cfg _ _ _, State.setRaw_mode _ _ _, State.setRaw_prevAb _ _ _, State.setRaw_rawOf _ _ _,
      fun v hv => absurd ⟨v, hv.trans (mul_comm _ _)⟩ hdvd, fun _ => State.setRaw_valueOf _ _ _ _⟩

/-- Settles O12: the counter off a multiple is stored on the latched state, and nothing is emitted. -/
theorem motionWithoutEmission : Obligations.MotionWithoutEmission := by
  intro s ab hd
  have hexec : ∀ m, s.mode = m → ∀ raw,
      raw = rawAfter (modeRange s.cfg m) (s.rawOf m) (dir s.cfg.polarity (transition s.prevAb ab)) →
      ¬ (modeRange s.cfg m).div ∣ raw → exec (.encEdge ab) s = .next ((s.latch ab).setRaw m raw) := by
    rintro m rfl raw rfl hdvd
    rw [exec_encEdge, encEdge_of_dir_ne_zero hd, encMove_of_not_dvd (s := s.latch ab) hdvd, State.commit_ok]
    rfl
  exact ⟨hexec .intensity, hexec .color⟩

/-- Settles O15: the absorbed microstep leaves the counter at the bound's multiple, which is emitted. -/
theorem absorbedStepEmitsTheBound : Obligations.AbsorbedStepEmitsTheBound := by
  intro s ab hs
  constructor
  · intro hd hraw
    obtain ⟨t, ht, hmoved⟩ := exec_encEdge_moved hs hd one_ne_zero
    have hcounter := counterAfter_of_hi hs zero_le_one hraw
    exact ⟨t, ht, by rw [hmoved.counter, hcounter, hraw], hmoved.emitted _ hcounter⟩
  · intro hd hraw
    obtain ⟨t, ht, hmoved⟩ := exec_encEdge_moved hs hd (by decide)
    have hcounter := counterAfter_of_lo hs (by decide : (-1 : Int) ≤ 0) hraw
    exact ⟨t, ht, by rw [hmoved.counter, hcounter, hraw], hmoved.emitted _ hcounter⟩

/-! ### Runs of edges -/

theorem runEvents_cons {is : List Instr} (h : exec i s = .next t) : runEvents (i :: is) s = runEvents is t := by
  simp only [runEvents, h]

/-- R161 from any of the divisor's microsteps: `j` steps beyond `k` divisors, `n` clockwise edges more. -/
theorem runEvents_clockwise (n : Nat) (j : Int) (hs : s.Inv) (hpol : s.cfg.polarity = .plus)
    (hraw : s.rawOf s.mode = k * (modeRange s.cfg s.mode).div + j)
    (hval : s.valueOf s.mode = if j = (modeRange s.cfg s.mode).div then k + 1 else k)
    (hk : k < (modeRange s.cfg s.mode).hi) (hj : 0 ≤ j) (hn : j + n ≤ (modeRange s.cfg s.mode).div) :
    ∃ t, runEvents (turnEdges nextCw n s.prevAb) s = .next t ∧ t.mode = s.mode ∧
      t.rawOf s.mode = k * (modeRange s.cfg s.mode).div + (j + n) ∧
      t.valueOf s.mode = if j + n = (modeRange s.cfg s.mode).div then k + 1 else k := by
  induction n generalizing s j with
  | zero => exact ⟨s, rfl, rfl, by simpa using hraw, by simpa using hval⟩
  | succ n ih =>
    push_cast at hn
    have hdiv := modeRange_div_pos hs.cfgWf s.mode
    have hdir : dir s.cfg.polarity (transition s.prevAb (nextCw s.prevAb)) = 1 := hpol ▸ dir_plus_nextCw _
    obtain ⟨u, hu, hmoved⟩ := exec_encEdge_moved hs hdir one_ne_zero
    have hcounter : s.counterAfter 1 = k * (modeRange s.cfg s.mode).div + (j + 1) := by
      have hlo := (hs.rawOf_mem s.mode).1
      have hhi : (k + 1) * (modeRange s.cfg s.mode).div ≤ (modeRange s.cfg s.mode).hi * (modeRange s.cfg s.mode).div :=
        Int.mul_le_mul_of_nonneg_right hk hdiv.le
      rw [add_mul, one_mul] at hhi
      rw [State.counterAfter, rawAfter_of_mem (by omega) (by omega), hraw, add_assoc]
    have hvalue : u.valueOf s.mode = if j + 1 = (modeRange s.cfg s.mode).div then k + 1 else k := by
      split
      next hlast => exact (hmoved.emitted _ (by rw [hcounter, hlast, add_mul, one_mul])).1
      next hmid =>
        rw [hmoved.quiet (by rw [hcounter]; exact not_dvd_mul_add (by omega) (by omega)), hval, if_neg (by omega)]
    have hrun := ih (s := u) (j := j + 1) hmoved.inv
    rw [hmoved.cfg, hmoved.mode, hmoved.reading] at hrun
    obtain ⟨t, ht, hmode, hrawT, hvalT⟩ := hrun hpol (hmoved.counter.trans hcounter) hvalue hk (by omega) (by omega)
    refine ⟨t, (runEvents_cons hu).trans ht, hmode, ?_, ?_⟩
    · rw [hrawT]
      push_cast
      ring
    · rw [hvalT]
      push_cast
      rw [add_assoc, add_comm 1]

/-- Settles O16: the run from the multiple itself. -/
theorem divisorClockwiseEdgesEmitOnce : Obligations.DivisorClockwiseEdgesEmitOnce := by
  intro s k n hs hpol hraw hval hk hn
  have hdiv := modeRange_div_pos hs.cfgWf s.mode
  have hrun := runEvents_clockwise n 0 hs hpol (by rw [hraw, add_zero]) (by rw [hval, if_neg hdiv.ne]) hk le_rfl (by omega)
  simpa only [zero_add] using hrun

/-- R162: an edge with motion and its inverse move the counter there and back, each time clamped, and emit the value it then
stands for. -/
theorem runEvents_edge_and_inverse (hs : s.Inv) (hd : dir s.cfg.polarity (transition s.prevAb ab) = d) (hne : d ≠ 0) :
    ∃ t, runEvents [.encEdge ab, .encEdge s.prevAb] s = .next t ∧
      t.rawOf s.mode = rawAfter (modeRange s.cfg s.mode) (s.counterAfter d) (-d) ∧
      ∀ v, rawAfter (modeRange s.cfg s.mode) (s.counterAfter d) (-d) = v * (modeRange s.cfg s.mode).div →
        t.valueOf s.mode = v := by
  obtain ⟨u, hu, hthere⟩ := exec_encEdge_moved hs hd hne
  have hdir : dir u.cfg.polarity (transition u.prevAb s.prevAb) = -d := by
    rw [hthere.cfg, hthere.reading, dir_inverse, hd]
  obtain ⟨t, ht, hback⟩ := exec_encEdge_moved hthere.inv hdir (neg_ne_zero.2 hne)
  have hcounter : u.counterAfter (-d) = rawAfter (modeRange s.cfg s.mode) (s.counterAfter d) (-d) := by
    rw [State.counterAfter, hthere.cfg, hthere.mode, hthere.counter]
  have hraw := hback.counter
  have hemit := hback.emitted
  rw [hthere.mode, hcounter] at hraw
  rw [hthere.cfg, hthere.mode, hcounter] at hemit
  exact ⟨t, (runEvents_cons hu).trans (runEvents_cons ht), hraw, fun v hv => (hemit v hv).1⟩

/-- R162: a microstep that is not absorbed, and its inverse, give the counter back. -/
theorem rawAfter_inverse (h : s.Inv) (hlo : (modeRange s.cfg s.mode).lo * (modeRange s.cfg s.mode).div ≤ s.rawOf s.mode + d)
    (hhi : s.rawOf s.mode + d ≤ (modeRange s.cfg s.mode).hi * (modeRange s.cfg s.mode).div) :
    rawAfter (modeRange s.cfg s.mode) (s.counterAfter d) (-d) = s.rawOf s.mode := by
  have hrange := h.rawOf_mem s.mode
  rw [State.counterAfter, rawAfter_of_mem hlo hhi, rawAfter_of_mem (by omega) (by omega)]
  omega

/-- Settles O17: the inverse of a step that is not absorbed, and the step down from an absorbed one. -/
theorem stepAndItsInverseReturnTheCounter : Obligations.StepAndItsInverseReturnTheCounter := by
  intro s ab hs
  constructor
  · intro hne hlo hhi
    obtain ⟨t, ht, hraw, -⟩ := runEvents_edge_and_inverse hs rfl hne
    exact ⟨t, ht, hraw.trans (rawAfter_inverse hs hlo hhi)⟩
  · intro hd hraw hlt
    obtain ⟨t, ht, hdrop, -⟩ := runEvents_edge_and_inverse hs hd one_ne_zero
    have hdiv := modeRange_div_pos hs.cfgWf s.mode
    have hgap : ((modeRange s.cfg s.mode).lo + 1) * (modeRange s.cfg s.mode).div ≤
        (modeRange s.cfg s.mode).hi * (modeRange s.cfg s.mode).div := Int.mul_le_mul_of_nonneg_right hlt hdiv.le
    rw [add_mul, one_mul] at hgap
    rw [counterAfter_of_hi hs zero_le_one hraw, ← hraw, rawAfter_of_mem (by omega) (by omega)] at hdrop
    exact ⟨t, ht, hdrop⟩

/-! ### Lighting updates -/

/-- A lighting key that writes a value in range raises no fault. -/
theorem exec_lightingKey (hkey : LightingKey s i m v) (hs : s.ValuesInRange) (hlo : (modeRange s.cfg m).lo ≤ v)
    (hhi : v ≤ (modeRange s.cfg m).hi) : exec i s = .next (s.relit m v) := by
  rw [exec_of_lightingKey hkey, afterLightingChange_setValue hs hlo hhi]
  rfl

/-- R214: `d` raises the colour temperature within its bound and leaves the encoder's elements alone. -/
theorem exec_keyD_of_inv (hs : s.Inv) : ∃ u, exec .keyD s = .next u ∧ u.Inv ∧ u.cfg = s.cfg ∧ u.mode = s.mode ∧
    u.prevAb = s.prevAb ∧ u.encRawColor = s.encRawColor ∧ u.colorTemp = min s.cfg.colorMax (s.colorTemp + 1) := by
  have hkey : LightingKey s .keyD .color (min s.cfg.colorMax (s.colorTemp + 1)) := .d
  obtain ⟨hlo, hhi⟩ := hkey.mem_range hs
  exact ⟨_, exec_lightingKey hkey hs.valuesInRange hlo hhi, hs.relit hlo hhi, rfl, rfl, rfl, rfl, rfl⟩

/-- Settles O18: the keys do not write the counter, and the two edges emit the value it stands for. -/
theorem staleCounterUndoesTheKeys : Obligations.StaleCounterUndoesTheKeys := by
  intro s k hs hpol hmode hraw hval hk
  obtain ⟨s₁, hfirst, hs₁, hcfg₁, hmode₁, hab₁, hraw₁, hval₁⟩ := exec_keyD_of_inv hs
  obtain ⟨u, hsecond, hu, hcfg₂, hmode₂, hab₂, hraw₂, hval₂⟩ := exec_keyD_of_inv hs₁
  have hcfg := hcfg₂.trans hcfg₁
  have hab := hab₂.trans hab₁
  have hcolor : u.mode = .color := hmode₂.trans (hmode₁.trans hmode)
  have hcounter : u.rawOf .color = k * s.cfg.divColor := hraw₂.trans (hraw₁.trans hraw)
  have hdir : dir u.cfg.polarity (transition u.prevAb (nextCw s.prevAb)) = 1 := by
    rw [hcfg, hpol, hab, dir_plus_nextCw]
  have hdiv : 0 < s.cfg.divColor := modeRange_div_pos hs.cfgWf .color
  have hroom : (k + 1) * s.cfg.divColor ≤ s.cfg.colorMax * s.cfg.divColor := Int.mul_le_mul_of_nonneg_right hk hdiv.le
  have hlow : s.cfg.colorMin * s.cfg.divColor ≤ k * s.cfg.divColor := hraw ▸ hs.rawColorLo
  rw [add_mul, one_mul] at hroom
  have hback : rawAfter (modeRange u.cfg u.mode) (u.counterAfter 1) (-1) = u.rawOf u.mode := by
    refine rawAfter_inverse hu ?_ ?_ <;> rw [hcolor, hcounter, hcfg] <;> simp only [modeRange] <;> omega
  obtain ⟨t, ht, hrawT, hvalT⟩ := runEvents_edge_and_inverse hu hdir one_ne_zero
  rw [hback, hcolor, hcounter] at hrawT hvalT
  rw [hab] at ht
  rw [hcfg] at hvalT
  refine ⟨u, t, (runEvents_cons hfirst).trans (runEvents_cons hsecond), ?_, ht, hvalT k rfl, hrawT⟩
  rw [hval₂, hcfg₁, hval₁, hval]
  omega

/-- Other registers, as an auxiliary command may have drawn them. -/
def State.drawn (s : State) (p : Pwm) : State := { s with pwm := p }

/-- A rewriting defines the registers, whatever they held. -/
theorem State.relit_drawn (p : Pwm) : (s.drawn p).relit m v = s.relit m v := by
  cases m <;> rfl

theorem exec_lightingKey_drawn (hkey : LightingKey s i m v) (hs : s.Inv) (p : Pwm) : exec i (s.drawn p) = exec i s := by
  obtain ⟨hlo, hhi⟩ := hkey.mem_range hs
  have hdrawn : LightingKey (s.drawn p) i m v := by
    cases hkey
    exacts [.b, .c, .d]
  rw [exec_lightingKey hkey hs.valuesInRange hlo hhi,
    exec_lightingKey hdrawn (fun n => hs.valuesInRange n) hlo hhi, State.relit_drawn]

/-- R219: an edge that emits does not depend on the registers it finds. -/
theorem exec_encEdge_drawn (hs : s.Inv) (hd : dir s.cfg.polarity (transition s.prevAb ab) ≠ 0)
    (hdvd : (modeRange s.cfg s.mode).div ∣ s.counterAfter (dir s.cfg.polarity (transition s.prevAb ab))) (p : Pwm) :
    exec (.encEdge ab) (s.drawn p) = exec (.encEdge ab) s := by
  obtain ⟨q, hq⟩ := hdvd
  have hraw := hq.trans (mul_comm _ _)
  have hdiv := modeRange_div_pos hs.cfgWf s.mode
  obtain ⟨-, hemit⟩ := encMove_emits (s := s.latch ab) hs.valuesInRange hdiv hraw
  obtain ⟨-, hemitDrawn⟩ := encMove_emits (s := (s.drawn p).latch ab) (fun n => hs.valuesInRange n) hdiv hraw
  have hsame : ((s.drawn p).latch ab).emitted q = (s.latch ab).emitted q := by
    simp [State.emitted, State.latch, State.drawn]
  rw [exec_encEdge, exec_encEdge, encEdge_of_dir_ne_zero hd, encEdge_of_dir_ne_zero (s := s.drawn p) hd, hemit]
  exact congrArg Host.Outcome.next ((congrArg (State.commit _) hemitDrawn).trans hsame)

/-- Settles O40: each lighting update defines all four registers. -/
theorem lightingUpdateForgetsTheDraws : Obligations.LightingUpdateForgetsTheDraws := fun _ p hs =>
  ⟨exec_lightingKey_drawn .b hs p, exec_lightingKey_drawn .c hs p, exec_lightingKey_drawn .d hs p,
    fun _ hd hdvd => exec_encEdge_drawn hs hd hdvd p⟩

end Sys2Proof.Machine
end

section
/-! PROOFS. Runs of the button and its ticks (spec/44_mode_debounce_fsm.md R171 to R180, spec/70_reset_and_hazards.md R278): the
ticks left before the expiry tick, which every tick lowers by one and no button edge changes. -/

namespace Sys2Proof.Machine

variable {s t : State} {e : Instr} {es : List Instr} {l : Level} {d : DebState} {n : Int}

/-! ### The press in IDLE -/

/-- Settles O19: the press in each mode, field by field. -/
theorem pressInIdleTogglesTheMode : Obligations.PressInIdleTogglesTheMode := by
  intro s hidle
  rw [exec_btnEdge, btnEdge_press_of_idle hidle]
  constructor <;> intro hm <;>
    simp [State.pressInIdle, hm, Mode.toggle, State.setRaw, State.showActive, State.setDisplayValue, State.valueOf, policyOf,
      modeRange]

/-- R173, R174: a busy machine ignores the button's edges. -/
theorem exec_btnEdge_of_busy (b : Edge) (hbusy : s.debState ≠ .idle) : exec (.btnEdge b) s = .next s := by
  cases b
  exacts [(otherButtonEdgesAreIgnored s).2, (otherButtonEdgesAreIgnored s).1 hbusy]

/-! ### The ticks before the expiry -/

/-- The debounce state and the countdown replaced; all that a tick writes (R175). -/
def State.debounced (s : State) (d : DebState) (n : Int) : State := { s with debState := d, debCount := n }

/-- The ticks up to and including the expiry tick (R179). -/
def State.ticksLeft (s : State) : Int :=
  match s.debState with
  | .idle => 0
  | .pressed => s.cfg.debCount + 1
  | .debouncing => s.debCount

theorem ticksLeft_of_pressed (h : s.debState = .pressed) : s.ticksLeft = s.cfg.debCount + 1 := by
  simp only [State.ticksLeft, h]

theorem ticksLeft_of_debouncing (h : s.debState = .debouncing) : s.ticksLeft = s.debCount := by
  simp only [State.ticksLeft, h]

/-- R177, R178: before the expiry a tick at any level leaves DEBOUNCING with one tick less. -/
theorem debTick_before_expiry (hbusy : s.debState ≠ .idle) (hleft : s.ticksLeft ≠ 1) :
    debTick l s = s.debounced .debouncing (s.ticksLeft - 1) := by
  cases hd : s.debState with
  | idle => exact absurd hd hbusy
  | pressed =>
    rw [debTick_of_pressed hd, ticksLeft_of_pressed hd, add_sub_cancel_right]
    rfl
  | debouncing =>
    rw [ticksLeft_of_debouncing hd] at hleft ⊢
    rw [debTick_of_debouncing_of_ne_one hd hleft, State.debounced, ← hd]

/-- A busy state one tick before the end is in DEBOUNCING, since `DEB_COUNT` is at least 1. -/
theorem debouncing_of_ticksLeft_eq_one (hcount : 1 ≤ s.cfg.debCount) (hbusy : s.debState ≠ .idle) (hleft : s.ticksLeft = 1) :
    s.debState = .debouncing ∧ s.debCount = 1 := by
  cases hd : s.debState with
  | idle => exact absurd hd hbusy
  | pressed =>
    rw [ticksLeft_of_pressed hd] at hleft
    omega
  | debouncing => exact ⟨rfl, by rwa [ticksLeft_of_debouncing hd] at hleft⟩

/-- A debounce tick, at any level. -/
def isTick : Instr → Bool
  | .debTick _ => true
  | _ => false

/-- R179, R180: from a busy state, fewer ticks than are left, at any levels, and any button edges between them stay busy, use up
those ticks, and write nothing else. -/
theorem runEvents_before_expiry (hes : ∀ e ∈ es, (∃ l, e = .debTick l) ∨ ∃ b, e = .btnEdge b) (hbusy : s.debState ≠ .idle)
    (hleft : (es.countP isTick : Int) < s.ticksLeft) :
    ∃ d n, runEvents es s = .next (s.debounced d n) ∧ d ≠ .idle ∧
      (s.debounced d n).ticksLeft = s.ticksLeft - es.countP isTick := by
  induction es generalizing s with
  | nil => exact ⟨s.debState, s.debCount, rfl, hbusy, (sub_zero _).symm⟩
  | cons e es ih =>
    have hrest : ∀ e ∈ es, (∃ l, e = .debTick l) ∨ ∃ b, e = .btnEdge b := fun e he => hes e (List.mem_cons_of_mem _ he)
    obtain ⟨l, rfl⟩ | ⟨b, rfl⟩ := hes _ List.mem_cons_self
    · have hcount : ((Instr.debTick l :: es).countP isTick : Int) = es.countP isTick + 1 := by
        rw [List.countP_cons_of_pos rfl, Nat.cast_succ]
      rw [hcount] at hleft ⊢
      have htick := debTick_before_expiry (l := l) hbusy (by omega)
      have hleft' : (s.debounced .debouncing (s.ticksLeft - 1)).ticksLeft = s.ticksLeft - 1 := rfl
      obtain ⟨d, n, hrun, hd, hticks⟩ := ih (s := s.debounced .debouncing (s.ticksLeft - 1)) hrest nofun (by omega)
      refine ⟨d, n, (runEvents_cons (exec_debTick l s)).trans ?_, hd, ?_⟩
      · rw [htick]
        exact hrun
      · rw [hleft'] at hticks
        exact hticks.trans (by ring)
    · have hcount : (Instr.btnEdge b :: es).countP isTick = es.countP isTick := List.countP_cons_of_neg nofun
      rw [hcount] at hleft ⊢
      obtain ⟨d, n, hrun, hbusy', hticks⟩ := ih hrest hbusy hleft
      exact ⟨d, n, (runEvents_cons (exec_btnEdge_of_busy b hbusy)).trans hrun, hbusy', hticks⟩

/-- A last tick after a run. -/
theorem runEvents_append_tick (h : runEvents es s = .next t) : runEvents (es ++ [.debTick l]) s = .next (debTick l t) :=
  (runEvents_append h).trans rfl

/-! ### Runs of ticks alone -/

theorem countP_isTick_map (ls : List Level) : (ls.map Instr.debTick).countP isTick = ls.length := by
  induction ls with
  | nil => rfl
  | cons l ls ih => rw [List.map_cons, List.countP_cons_of_pos rfl, ih, List.length_cons]

/-- R179: a run of fewer ticks than are left. -/
theorem runTicks_before_expiry (ls : List Level) (hbusy : s.debState ≠ .idle) (hleft : (ls.length : Int) < s.ticksLeft) :
    ∃ d n, runEvents (ls.map Instr.debTick) s = .next (s.debounced d n) ∧ d ≠ .idle ∧
      (s.debounced d n).ticksLeft = s.ticksLeft - ls.length := by
  rw [← countP_isTick_map ls] at hleft ⊢
  refine runEvents_before_expiry (fun e he => ?_) hbusy hleft
  obtain ⟨l, -, rfl⟩ := List.mem_map.1 he
  exact .inl ⟨l, rfl⟩

/-- R178, R179: the tick that uses up the last one ends the debouncing with the button released, and re-arms it held. -/
theorem runTicks_expiry (ls : List Level) (hcount : 1 ≤ s.cfg.debCount) (hbusy : s.debState ≠ .idle)
    (hleft : (ls.length : Int) + 1 = s.ticksLeft) :
    (∃ t, runEvents ((ls ++ [Level.released]).map Instr.debTick) s = .next t ∧ t.debState = .idle) ∧
      ∃ t, runEvents ((ls ++ [Level.held]).map Instr.debTick) s = .next t ∧ t.debState = .debouncing ∧
        t.debCount = s.cfg.debCount := by
  obtain ⟨d, n, hrun, hd, hticks⟩ := runTicks_before_expiry ls hbusy (by omega)
  obtain ⟨hdeb, hone⟩ := debouncing_of_ticksLeft_eq_one (s := s.debounced d n) hcount hd (by omega)
  rw [List.map_append, List.map_append]
  refine ⟨⟨_, runEvents_append_tick hrun, ?_⟩, _, runEvents_append_tick hrun, ?_⟩
  · rw [debTick_released_of_expiry hdeb hone]
  · rw [debTick_held_of_expiry hdeb hone]
    exact ⟨hdeb, rfl⟩

/-- Settles O22: `DEB_COUNT + 1` ticks are left in PRESSED, and `DEB_COUNT` after a re-arming. -/
theorem debounceTakesCountPlusOneTicks : Obligations.DebounceTakesCountPlusOneTicks := by
  intro s ls hs
  have hcount := hs.one_le_cfg_debCount
  refine ⟨fun hpressed hlen => ?_, fun hpressed hlen => ?_, fun hdeb hn hlen => ?_, fun hdeb hn hlen => ?_⟩
  · have hleft := ticksLeft_of_pressed hpressed
    obtain ⟨d, n, hrun, hd, -⟩ := runTicks_before_expiry (s := s) ls (by simp [hpressed]) (by omega)
    exact ⟨_, hrun, hd⟩
  · have hleft := ticksLeft_of_pressed hpressed
    exact runTicks_expiry ls hcount (by simp [hpressed]) (by omega)
  · have hleft := ticksLeft_of_debouncing hdeb
    obtain ⟨d, n, hrun, hd, hticks⟩ := runTicks_before_expiry (s := s) ls (by simp [hdeb]) (by omega)
    refine ⟨_, hrun, ?_⟩
    cases d with
    | idle => exact absurd rfl hd
    | pressed =>
      rw [ticksLeft_of_pressed rfl] at hticks
      simp only [State.debounced] at hticks
      omega
    | debouncing => rfl
  · have hleft := ticksLeft_of_debouncing hdeb
    exact (runTicks_expiry ls hcount (by simp [hdeb]) (by omega)).1

/-! ### A whole press -/

theorem countP_isTick_of_released (hes : ∀ e ∈ es, e = .debTick .released ∨ ∃ b, e = .btnEdge b) :
    es.countP isTick = es.count (.debTick .released) := by
  refine List.countP_congr fun e he => ?_
  rcases hes e he with rfl | ⟨b, rfl⟩ <;> simp [isTick]

/-- Settles O23: the press leaves `DEB_COUNT + 1` ticks, the bouncing uses up all but the last, and the last returns to IDLE; no
tick writes anything but the machine's own elements. -/
theorem onePressTogglesOnce : Obligations.OnePressTogglesOnce := by
  intro s es hs hidle hes hcount
  have hpress : exec (.btnEdge .press) s = .next s.pressInIdle := by rw [exec_btnEdge, btnEdge_press_of_idle hidle]
  have hcfg : s.pressInIdle.cfg = s.cfg := by simp [State.pressInIdle]
  have hpressed : s.pressInIdle.debState = .pressed := rfl
  have hleft := ticksLeft_of_pressed hpressed
  have hticks := countP_isTick_of_released hes
  rw [hcfg] at hleft
  obtain ⟨d, n, hrun, hd, hend⟩ := runEvents_before_expiry (es := es) (s := s.pressInIdle)
    (fun e he => (hes e he).imp_left fun h => ⟨_, h⟩) (by simp [hpressed]) (by omega)
  obtain ⟨hdeb, hone⟩ := debouncing_of_ticksLeft_eq_one (s := s.pressInIdle.debounced d n)
    (hcfg.symm ▸ hs.one_le_cfg_debCount) hd (by omega)
  refine ⟨_, runEvents_append_tick ((runEvents_cons hpress).trans hrun), ?_⟩
  rw [debTick_released_of_expiry hdeb hone]
  have hcolor : s.pressInIdle.colorTemp = s.colorTemp := State.pressInIdle_valueOf (m := .color)
  have hintensity : s.pressInIdle.intensity = s.intensity := State.pressInIdle_valueOf (m := .intensity)
  refine ⟨State.pressInIdle_mode, rfl, hcolor, hintensity, ?_, ?_, ?_⟩ <;> simp [State.debounced, State.pressInIdle]

/-! ### A button that is held -/

/-- R178: a tick with the button held does not reach IDLE. -/
theorem debTick_held (hbusy : s.debState ≠ .idle) : ∃ n, debTick .held s = s.debounced .debouncing n := by
  by_cases hleft : s.ticksLeft = 1
  · cases hd : s.debState with
    | idle => exact absurd hd hbusy
    | pressed => exact ⟨_, debTick_of_pressed hd⟩
    | debouncing =>
      rw [ticksLeft_of_debouncing hd] at hleft
      refine ⟨s.cfg.debCount, ?_⟩
      rw [debTick_held_of_expiry hd hleft, State.debounced, ← hd]
  · exact ⟨_, debTick_before_expiry hbusy hleft⟩

/-- R173, R174, R278: held ticks and button edges write the countdown only, and stay busy. -/
theorem runEvents_held (hes : ∀ e ∈ es, e = .debTick .held ∨ ∃ b, e = .btnEdge b) (hbusy : s.debState ≠ .idle) :
    ∃ d n, runEvents es s = .next (s.debounced d n) ∧ d ≠ .idle := by
  induction es generalizing s with
  | nil => exact ⟨s.debState, s.debCount, rfl, hbusy⟩
  | cons e es ih =>
    have hrest : ∀ e ∈ es, e = .debTick .held ∨ ∃ b, e = .btnEdge b := fun e he => hes e (List.mem_cons_of_mem _ he)
    obtain rfl | ⟨b, rfl⟩ := hes _ List.mem_cons_self
    · obtain ⟨n, htick⟩ := debTick_held hbusy
      obtain ⟨d, n', hrun, hd⟩ := ih (s := s.debounced .debouncing n) hrest nofun
      refine ⟨d, n', (runEvents_cons (exec_debTick .held s)).trans ?_, hd⟩
      rw [htick]
      exact hrun
    · obtain ⟨d, n, hrun, hd⟩ := ih hrest hbusy
      exact ⟨d, n, (runEvents_cons (exec_btnEdge_of_busy b hbusy)).trans hrun, hd⟩

/-- Settles O24: such a run writes neither the mode nor the display. -/
theorem heldButtonNeverTogglesAgain : Obligations.HeldButtonNeverTogglesAgain := by
  intro s es _ hbusy hes
  obtain ⟨d, n, hrun, hd⟩ := runEvents_held hes hbusy
  exact ⟨_, hrun, rfl, hd, rfl⟩

end Sys2Proof.Machine
end

section
/-! PROOFS. What is shown (spec/45_multiplexed_7seg_driver.md R191 to R199): the rendering of a value by its decimal digits, and
runs of scan ticks; then the auxiliary keys (spec/46_key_commands.md R215 to R219). -/

namespace Sys2Proof.Machine

variable {s t : State} {v n : Int} {p : Policy}

/-! ### Rendering -/

theorem render_of_neg (h : v < 0) : render v p = ⟨.blank, .hyphen⟩ := if_pos h

theorem render_of_gt (h : 99 < v) : render v p = ⟨.d0, .d0⟩ := by
  rw [render, if_neg (by omega), if_pos h]

/-- R191, R195: the digits of a value of `[0, 99]`, blanked as the policy says. -/
theorem render_of_mem (hlo : 0 ≤ v) (hhi : v ≤ 99) : render v p =
    { left := if p ≠ .none ∧ v / 10 = 0 then .blank else digitGlyph (v / 10)
      right := if p = .suppressBoth ∧ v = 0 then .blank else digitGlyph (v % 10) } := by
  rw [render, if_neg hlo.not_gt, if_neg hhi.not_gt]

/-- R85: the code of a digit's glyph is the digit. -/
theorem digitGlyph_code (hlo : 0 ≤ n) (hhi : n ≤ 9) : ((digitGlyph n).code : Int) = n := by
  interval_cases n <;> rfl

/-- Settles O25: the two values outside `[0, 99]` are rendered before the policy is asked. -/
theorem outOfRangeValuesRender : Obligations.OutOfRangeValuesRender := fun _ _ => ⟨render_of_neg, render_of_gt⟩

/-- Settles O26: the two digits by their codes, and the blanking by which digit is zero. -/
theorem renderShowsTheDecimalDigits : Obligations.RenderShowsTheDecimalDigits := by
  intro v hlo hhi
  have htens := digitGlyph_code (n := v / 10) (by omega) (by omega)
  have hones := digitGlyph_code (n := v % 10) (by omega) (by omega)
  have hplain : render v .none = ⟨digitGlyph (v / 10), digitGlyph (v % 10)⟩ := by simp [render_of_mem hlo hhi]
  rw [hplain]
  refine ⟨?_, ?_, ?_, fun h => ?_, fun h => ?_, fun h => ?_, ?_⟩
  · push_cast
    rw [htens, hones]
    omega
  · simp only
    omega
  · simp only
    omega
  · have htensPos : v / 10 ≠ 0 := by omega
    have hpos : v ≠ 0 := by omega
    simp [render_of_mem hlo hhi, htensPos, hpos]
  · have htensZero : v / 10 = 0 := by omega
    simp [render_of_mem hlo hhi, htensZero]
  · have hpos : v ≠ 0 := by omega
    simp [render_of_mem hlo hhi, hpos]
  · rintro rfl
    rfl

/-! ### Scan ticks -/

/-- Settles O27: the tick at each position, and the default patterns one by one. -/
theorem scanTickDrivesOneDigit : Obligations.ScanTickDrivesOneDigit := by
  refine ⟨fun s => ⟨fun h => ?_, fun h => ?_⟩, rfl⟩
  · rw [exec_scanTick, scanTick, h]
    rfl
  · rw [exec_scanTick, scanTick, h]
    rfl

/-- A tick at the end of a run leaves its own outputs (R198). -/
theorem runEvents_replicate_succ {k : Nat} (h : runEvents (List.replicate k .scanTick) s = .next t) :
    runEvents (List.replicate (k + 1) .scanTick) s = .next (scanTick t) := by
  rw [List.replicate_succ', runEvents_append h]
  rfl

theorem other_other_position : ∀ k : BitVec 1, 1 - (1 - k) = k := by decide

/-- R198, R199: after an even number of ticks the position and what a tick reads are as before, and the last of them, if there
was one, drove the other position. -/
theorem runEvents_even_scanTicks (s : State) (n : Nat) :
    ∃ t, runEvents (List.replicate (2 * n) .scanTick) s = .next t ∧ t.scanPos = s.scanPos ∧ t.disp = s.disp ∧ t.cfg = s.cfg ∧
      (0 < n → t.digSel = selectOf (1 - s.scanPos) ∧ t.segOut = segPattern s.cfg.segMap (s.disp.slot (1 - s.scanPos))) := by
  induction n with
  | zero => exact ⟨s, rfl, rfl, rfl, rfl, fun h => absurd h (lt_irrefl 0)⟩
  | succ n ih =>
    obtain ⟨t, hrun, hpos, hdisp, hcfg, -⟩ := ih
    refine ⟨scanTick (scanTick t), runEvents_replicate_succ (runEvents_replicate_succ hrun), ?_, hdisp, hcfg, fun _ => ?_⟩
    · rw [← hpos]
      exact other_other_position _
    · rw [← hpos, ← hdisp, ← hcfg]
      exact ⟨rfl, rfl⟩

/-- Settles O28: the odd run is one tick more than an even one. -/
theorem scanTicksAlternateTheDigits : Obligations.ScanTicksAlternateTheDigits := by
  intro s n
  obtain ⟨t, hrun, hpos, hdisp, hcfg, houtputs⟩ := runEvents_even_scanTicks s n
  refine ⟨⟨t, hrun, hpos, hdisp, houtputs⟩, scanTick t, runEvents_replicate_succ hrun, ?_⟩
  rw [← hpos, ← hdisp, ← hcfg]
  exact ⟨rfl, rfl, rfl, rfl⟩

/-! ### The auxiliary keys -/

/-- Settles O39: each key's percentage and its own four draws, which are in range. -/
theorem auxKeysMoveThePercentage : Obligations.AuxKeysMoveThePercentage := by
  intro s hp
  have hpwm : ∀ (key : BitVec 8) (cold warm : Int), (s.auxiliary key cold warm).pwm.m0.InRange s.cfg.pwmMax ∧
      (s.auxiliary key cold warm).pwm.m1.InRange s.cfg.pwmMax := fun _ _ _ => auxiliary_pwm_inRange hp _ _ _
  exact ⟨⟨_, (hpwm _ _ _).1, (hpwm _ _ _).2, exec_of_auxKey .q⟩, ⟨_, (hpwm _ _ _).1, (hpwm _ _ _).2, exec_of_auxKey .a⟩,
    ⟨_, (hpwm _ _ _).1, (hpwm _ _ _).2, exec_of_auxKey .w⟩, ⟨_, (hpwm _ _ _).1, (hpwm _ _ _).2, exec_of_auxKey .s⟩⟩

end Sys2Proof.Machine
end

section
/-! PROOFS. The brightness curve scaler (spec/42_brightness_curve_scaler.md R130 to R140): rounding to binary32 gives the
nearest value, ties to even (R134); scaling is bounded by the entry and rises with the curve; and what `setLighting` writes
and how the duty rises with the intensity. -/

namespace Sys2Proof.Machine

variable {x y : Rat} {e : Int} {k : Nat}

/-! ### Rounding to an integer -/

/-- The floor where the fraction is at most a half, the next integer where it is at least a half. -/
theorem roundTiesEven_cases (x : Rat) :
    roundTiesEven x = x.floor ∧ x - x.floor ≤ 1 / 2 ∨ roundTiesEven x = x.floor + 1 ∧ 1 / 2 ≤ x - x.floor := by
  unfold roundTiesEven
  simp only
  split_ifs with hlow hhigh heven
  · exact .inl ⟨rfl, hlow.le⟩
  · exact .inr ⟨rfl, hhigh.le⟩
  · exact .inl ⟨rfl, not_lt.1 hhigh⟩
  · exact .inr ⟨rfl, not_lt.1 hlow⟩

/-- `roundTiesEven` gives the nearest integer. -/
theorem roundTiesEven_nearest (x : Rat) (n : Int) : |(roundTiesEven x : Rat) - x| ≤ |(n : Rat) - x| := by
  have hlo : (x.floor : Rat) ≤ x := Int.floor_le x
  have hhi : x < x.floor + 1 := Int.lt_floor_add_one x
  have hother : x - x.floor ≤ |(n : Rat) - x| ∨ x.floor + 1 - x ≤ |(n : Rat) - x| := by
    rcases le_or_gt n x.floor with h | h
    · have h' : (n : Rat) ≤ x.floor := by exact_mod_cast h
      exact .inl (le_trans (by linarith) (neg_le_abs _))
    · have h' : (x.floor : Rat) + 1 ≤ n := by exact_mod_cast h
      exact .inr (le_trans (by linarith) (le_abs_self _))
  rcases roundTiesEven_cases x with ⟨hround, hhalf⟩ | ⟨hround, hhalf⟩ <;> rw [hround]
  · rw [abs_sub_comm, abs_of_nonneg (sub_nonneg.2 hlo)]
    rcases hother with h | h <;> linarith
  · rw [Int.cast_add, Int.cast_one, abs_of_nonneg (sub_nonneg.2 hhi.le)]
    rcases hother with h | h <;> linarith

/-- Midway between two integers the even one is taken. -/
theorem roundTiesEven_half (k : Nat) : roundTiesEven ((k : Rat) + 1 / 2) = ((if k % 2 = 0 then k else k + 1 : Nat) : Int) := by
  have hfloor : ((k : Rat) + 1 / 2).floor = (k : Int) :=
    (Int.floor_eq_iff (a := (k : Rat) + 1 / 2)).2 (by constructor <;> push_cast <;> linarith)
  have hhalf : (k : Rat) + 1 / 2 - ((k : Int) : Rat) = 1 / 2 := by
    push_cast
    ring
  unfold roundTiesEven
  simp only [hfloor, hhalf, lt_irrefl, if_false]
  split_ifs <;> omega

/-! ### The spacing of the binary32 values -/

/-- The exponent of the spacing around a value. -/
def ulpExponent (x : Rat) : Int := max (binaryExponent x - 23) (-149)

theorem ulp32_eq_zpow (x : Rat) : ulp32 x = (2 : Rat) ^ ulpExponent x := pow2_eq _

/-- A positive value is less than `2^24` spacings. -/
theorem lt_mul_ulp (hx : 0 < x) : x < 2 ^ 24 * (2 : Rat) ^ ulpExponent x := by
  have hexp := (binaryExponent_spec hx).2
  rw [pow2_eq] at hexp
  refine hexp.trans_le ?_
  rw [← zpow_natCast, ← zpow_add₀ two_ne_zero]
  refine zpow_le_zpow_right₀ one_le_two ?_
  unfold ulpExponent
  push_cast
  omega

/-- Above the least spacing a positive value is at least `2^23` spacings. -/
theorem mul_ulp_le (hx : 0 < x) (he : -149 < ulpExponent x) : 2 ^ 23 * (2 : Rat) ^ ulpExponent x ≤ x := by
  have hexp := (binaryExponent_spec hx).1
  rw [pow2_eq] at hexp
  refine le_trans ?_ hexp
  rw [← zpow_natCast, ← zpow_add₀ two_ne_zero]
  refine zpow_le_zpow_right₀ one_le_two ?_
  unfold ulpExponent at he ⊢
  push_cast
  omega

/-- The spacing of a value that has 24 significant bits at `2^e`, or of any value below at the least exponent. -/
theorem ulpExponent_eq (hx : 0 < x) (hlt : x < 2 ^ 24 * (2 : Rat) ^ e) (he : -149 ≤ e)
    (hle : 2 ^ 23 * (2 : Rat) ^ e ≤ x ∨ e = -149) : ulpExponent x = e := by
  obtain ⟨hlo, hhi⟩ := binaryExponent_spec hx
  rw [pow2_eq] at hlo hhi
  have hupper : binaryExponent x < 24 + e := by
    have h := hlo.trans_lt hlt
    rw [← zpow_natCast, ← zpow_add₀ two_ne_zero] at h
    exact (zpow_lt_zpow_iff_right₀ one_lt_two).1 h
  unfold ulpExponent
  rcases hle with hle | rfl
  · have h := hle.trans_lt hhi
    rw [← zpow_natCast, ← zpow_add₀ two_ne_zero] at h
    have hlower := (zpow_lt_zpow_iff_right₀ one_lt_two).1 h
    push_cast at hlower
    omega
  · omega

/-! ### Rounding to binary32 -/

theorem fl32_of_pos (hx : 0 < x) : fl32 x = (roundTiesEven (x / 2 ^ ulpExponent x) : Rat) * 2 ^ ulpExponent x := by
  rw [fl32, if_neg hx.ne', if_neg hx.not_gt, fl32Pos, ulp32_eq_zpow]

theorem fl32_zero : fl32 0 = 0 := if_pos rfl

/-- R134: the result has at most 24 significant bits. -/
theorem fl32_form (hx : 0 ≤ x) : ∃ (k : Nat) (e : Int), k ≤ 2 ^ 24 ∧ -149 ≤ e ∧ fl32 x = (k : Rat) * 2 ^ e := by
  rcases hx.eq_or_lt with rfl | hx
  · exact ⟨0, 0, by norm_num, by norm_num, by simp [fl32_zero]⟩
  have hulp : (0 : Rat) < 2 ^ ulpExponent x := by positivity
  have hnonneg : 0 ≤ roundTiesEven (x / 2 ^ ulpExponent x) := by
    have h := roundTiesEven_mono (x := ((0 : Int) : Rat)) (y := x / 2 ^ ulpExponent x) (by push_cast; positivity)
    rwa [roundTiesEven_intCast] at h
  have hbound : roundTiesEven (x / 2 ^ ulpExponent x) ≤ 2 ^ 24 := by
    have h := roundTiesEven_mono (x := x / 2 ^ ulpExponent x) (y := ((2 ^ 24 : Int) : Rat))
      (by rw [div_le_iff₀ hulp]; push_cast; exact (lt_mul_ulp hx).le)
    rwa [roundTiesEven_intCast] at h
  refine ⟨(roundTiesEven (x / 2 ^ ulpExponent x)).toNat, ulpExponent x, by omega, le_max_right _ _, ?_⟩
  rw [fl32_of_pos hx]
  congr 1
  exact_mod_cast (Int.toNat_of_nonneg hnonneg).symm

/-- The result is nearest among the multiples of the spacing. -/
theorem fl32_nearest_multiple (hx : 0 < x) (n : Int) : |fl32 x - x| ≤ |(n : Rat) * 2 ^ ulpExponent x - x| := by
  have hulp : (0 : Rat) < 2 ^ ulpExponent x := by positivity
  have hscale : ∀ q : Rat, |q * 2 ^ ulpExponent x - x| = |q - x / 2 ^ ulpExponent x| * 2 ^ ulpExponent x := fun q => by
    rw [← abs_of_pos hulp, ← abs_mul, abs_of_pos hulp, sub_mul, div_mul_cancel₀ _ hulp.ne']
  rw [fl32_of_pos hx, hscale, hscale]
  exact mul_le_mul_of_nonneg_right (roundTiesEven_nearest _ n) hulp.le

/-- R134: no value of at most 24 significant bits is nearer. Those of the spacing's exponent and above are multiples of the
spacing; those below it do not reach `2^23` spacings, which the value itself does. -/
theorem fl32_nearest (hx : 0 ≤ x) (hk : k ≤ 2 ^ 24) (he : -149 ≤ e) : |fl32 x - x| ≤ |(k : Rat) * 2 ^ e - x| := by
  rcases hx.eq_or_lt with rfl | hx
  · rw [fl32_zero, sub_zero, abs_zero]
    exact abs_nonneg _
  rcases le_or_gt (ulpExponent x) e with hle | hlt
  · obtain ⟨n, hn⟩ := Int.eq_ofNat_of_zero_le (sub_nonneg.2 hle)
    have hmultiple : (k : Rat) * 2 ^ e = ((k * 2 ^ n : Nat) : Int) * 2 ^ ulpExponent x := by
      rw [show e = n + ulpExponent x by omega, zpow_add₀ two_ne_zero]
      push_cast
      rw [zpow_natCast, mul_assoc]
    rw [hmultiple]
    exact fl32_nearest_multiple hx _
  · have hreach := mul_ulp_le hx (he.trans_lt hlt)
    have hbelow : (k : Rat) * 2 ^ e ≤ 2 ^ 23 * 2 ^ ulpExponent x := by
      have hk' : (k : Rat) ≤ 2 ^ 24 := by exact_mod_cast hk
      have hpow : (2 : Rat) ^ (e + 1) ≤ 2 ^ ulpExponent x := zpow_le_zpow_right₀ one_le_two hlt
      rw [zpow_add_one₀ two_ne_zero] at hpow
      have hpos : (0 : Rat) < 2 ^ e := by positivity
      nlinarith
    have h := fl32_nearest_multiple hx (2 ^ 23)
    rw [Int.cast_pow, Int.cast_ofNat] at h
    refine h.trans ?_
    rw [abs_sub_comm, abs_sub_comm _ x, abs_of_nonneg (sub_nonneg.2 hreach), abs_of_nonneg (by linarith)]
    linarith

/-- A value of at most 24 significant bits is kept. -/
theorem fl32_of_form (hk : k ≤ 2 ^ 24) (he : -149 ≤ e) : fl32 ((k : Rat) * 2 ^ e) = (k : Rat) * 2 ^ e := by
  have h := fl32_nearest (x := (k : Rat) * 2 ^ e) (by positivity) hk he
  rw [sub_self, abs_zero] at h
  exact sub_eq_zero.1 (abs_nonpos_iff.1 h)

/-- R134: midway between two neighbours the even one is taken. -/
theorem fl32_tie (hk : k < 2 ^ 24) (he : -149 ≤ e) (hlow : 2 ^ 23 ≤ k ∨ e = -149) :
    fl32 (((k : Rat) + 1 / 2) * 2 ^ e) = ((if k % 2 = 0 then k else k + 1 : Nat) : Rat) * 2 ^ e := by
  have hpow : (0 : Rat) < 2 ^ e := by positivity
  have hx : 0 < ((k : Rat) + 1 / 2) * 2 ^ e := by positivity
  have hk' : (k : Rat) + 1 ≤ 2 ^ 24 := by exact_mod_cast hk
  have hexp : ulpExponent (((k : Rat) + 1 / 2) * 2 ^ e) = e := by
    refine ulpExponent_eq hx (mul_lt_mul_of_pos_right (by linarith) hpow) he (hlow.imp_left fun h => ?_)
    have h' : (2 : Rat) ^ 23 ≤ k := by exact_mod_cast h
    exact mul_le_mul_of_nonneg_right (by linarith) hpow.le
  rw [fl32_of_pos hx, hexp, mul_div_cancel_right₀ _ hpow.ne', roundTiesEven_half, Int.cast_natCast]

theorem fl32_one : fl32 1 = 1 := by simpa using fl32_intCast (d := 1) (by norm_num) (by norm_num)

/-! ### Scaling -/

section Scaling

variable {c : Cfg} {b b' : Rat} {d : Int}

/-- R134 for the two scalings the spec gives, on a duty that binary32 holds exactly. -/
theorem scale_of_binary32 (hc : c.scaleFn = .binary32) (h0 : 0 ≤ d) (hd : d ≤ 2 ^ 24) :
    scale c b d = trunc (fl32 (fl32 b * d)) := by
  rw [scale, hc]
  simp only [scaleBinary32, fl32_intCast h0 hd]

theorem scale_of_exactProduct (hc : c.scaleFn = .exactProduct) (h0 : 0 ≤ d) (hd : d ≤ 2 ^ 24) :
    scale c b d = trunc (fl32 b * d) := by
  rw [scale, hc]
  simp only [scaleExact, fl32_intCast h0 hd]

/-- Both scalings give `n` where the rounded product and the exact one both truncate to `n`. -/
theorem scale_eq_of (hc : c.scaleFn ≠ .other) (h0 : 0 ≤ d) (hd : d ≤ 2 ^ 24) {n : Int}
    (hbinary : trunc (fl32 (fl32 b * d)) = n) (hexact : trunc (fl32 b * d) = n) : scale c b d = n := by
  cases hfn : c.scaleFn with
  | binary32 => rw [scale_of_binary32 hfn h0 hd, hbinary]
  | exactProduct => rw [scale_of_exactProduct hfn h0 hd, hexact]
  | other => exact absurd hfn hc

theorem scale_one (hc : c.scaleFn ≠ .other) (h0 : 0 ≤ d) (hd : d ≤ 2 ^ 24) : scale c 1 d = d := by
  refine scale_eq_of hc h0 hd ?_ ?_ <;> rw [fl32_one, one_mul]
  · rw [fl32_intCast h0 hd, trunc_intCast]
  · exact trunc_intCast d

/-- R134: a curve value of binary32 whose product with the entry is one too: the product truncated. -/
theorem scale_of_form {k n : Nat} (hc : c.scaleFn ≠ .other) (hk : k ≤ 2 ^ 24) (hn : n ≤ 149) (h0 : 0 ≤ d) (hd : d ≤ 2 ^ 24)
    (hkd : k * d ≤ 2 ^ 24) : scale c ((k : Rat) / 2 ^ n) d = k * d / 2 ^ n := by
  have hform : ∀ q : Rat, q / 2 ^ n = q * 2 ^ (-(n : Int)) := fun q => by rw [zpow_neg, zpow_natCast, div_eq_mul_inv]
  have hcurve : fl32 ((k : Rat) / 2 ^ n) = (k : Rat) / 2 ^ n := by
    rw [hform]
    exact fl32_of_form hk (by omega)
  obtain ⟨j, rfl⟩ := Int.eq_ofNat_of_zero_le h0
  have hproduct : (k : Rat) / 2 ^ n * ((j : Int) : Rat) = ((k * j : Nat) : Rat) / 2 ^ n := by
    push_cast
    ring
  have hrounded : fl32 (((k * j : Nat) : Rat) / 2 ^ n) = ((k * j : Nat) : Rat) / 2 ^ n := by
    rw [hform]
    exact fl32_of_form (by exact_mod_cast hkd) (by omega)
  have htrunc : trunc (((k * j : Nat) : Rat) / 2 ^ n) = (k : Int) * (j : Int) / 2 ^ n := by
    rw [trunc_eq_floor (by positivity)]
    have h := Rat.floor_intCast_div_natCast ((k * j : Nat) : Int) (2 ^ n)
    push_cast at h ⊢
    exact h
  refine scale_eq_of hc h0 hd ?_ ?_ <;> rw [hcurve, hproduct]
  · rw [hrounded, htrunc]
  · exact htrunc

/-- The two scalings keep the order of the curve values. -/
theorem scale_mono (hc : c.scaleFn ≠ .other) (hb : 0 ≤ b) (hle : b ≤ b') (h0 : 0 ≤ d) (hd : d ≤ 2 ^ 24) :
    scale c b d ≤ scale c b' d := by
  have hd' : (0 : Rat) ≤ d := by exact_mod_cast h0
  have hfl := fl32_nonneg hb
  have hprod : fl32 b * d ≤ fl32 b' * d := mul_le_mul_of_nonneg_right (fl32_mono hb hle) hd'
  have hnonneg : 0 ≤ fl32 b * d := mul_nonneg hfl hd'
  cases hfn : c.scaleFn with
  | binary32 =>
    rw [scale_of_binary32 hfn h0 hd, scale_of_binary32 hfn h0 hd]
    exact trunc_mono (fl32_nonneg hnonneg) (fl32_mono hnonneg hprod)
  | exactProduct =>
    rw [scale_of_exactProduct hfn h0 hd, scale_of_exactProduct hfn h0 hd]
    exact trunc_mono hnonneg hprod
  | other => exact absurd hfn hc

theorem scale_zero (hc : c.scaleFn ≠ .other) (h0 : 0 ≤ d) (hd : d ≤ 2 ^ 24) : scale c 0 d = 0 := by
  refine scale_eq_of hc h0 hd ?_ ?_ <;> simp [fl32_zero, trunc]

/-- R139: between the curve values 0 and 1 the scaled duty is between 0 and the duty. -/
theorem scale_mem (hc : c.scaleFn ≠ .other) (hb : 0 ≤ b) (hb1 : b ≤ 1) (h0 : 0 ≤ d) (hd : d ≤ 2 ^ 24) :
    0 ≤ scale c b d ∧ scale c b d ≤ d :=
  ⟨(scale_zero hc h0 hd).ge.trans (scale_mono hc le_rfl hb h0 hd), (scale_mono hc hb hb1 h0 hd).trans (scale_one hc h0 hd).le⟩

/-! ### The curve of a well-formed configuration -/

/-- R130: ten values of `(0, 1]`, none above the one after it. -/
theorem wellFormed_brightness (hwf : c.wellFormed = true) :
    c.brightness.length = 10 ∧ (∀ b ∈ c.brightness, 0 < b ∧ b ≤ 1) ∧ nonDecreasing c.brightness = true := by
  simp only [Cfg.wellFormed, Cfg.brightnessOk, Bool.and_eq_true, decide_eq_true_eq, List.all_eq_true] at hwf
  tauto

theorem pwmMax_le (hwf : c.wellFormed = true) : c.pwmMax ≤ 2 ^ 24 := by
  simp only [Cfg.wellFormed, Cfg.pwmMaxOk, Bool.and_eq_true, decide_eq_true_eq] at hwf
  tauto

theorem pairwise_of_nonDecreasing {l : List Rat} (h : nonDecreasing l = true) : l.Pairwise (· ≤ ·) := by
  induction l with
  | nil => exact .nil
  | cons a l ih =>
    cases l with
    | nil => exact List.pairwise_singleton _ _
    | cons b l =>
      simp only [nonDecreasing, Bool.and_eq_true, decide_eq_true_eq] at h
      obtain ⟨hab, hrest⟩ := h
      have htail := ih hrest
      refine List.pairwise_cons.2 ⟨fun x hx => ?_, htail⟩
      rcases List.mem_cons.1 hx with rfl | hx
      · exact hab
      · exact hab.trans ((List.pairwise_cons.1 htail).1 x hx)

/-- R130: the curve rises from above 0. -/
theorem curveAt_mono (hwf : c.wellFormed = true) {i j : Int} (hi : 0 ≤ i) (hij : i ≤ j) (hj : j ≤ 9) :
    0 ≤ curveAt c i ∧ curveAt c i ≤ curveAt c j := by
  obtain ⟨hlen, hvalues, hrises⟩ := wellFormed_brightness hwf
  have hcurve : ∀ n : Int, 0 ≤ n → (hn : n ≤ 9) → curveAt c n = c.brightness[n.toNat]'(by omega) := fun n _ hn => by
    rw [curveAt, List.getD_eq_getElem _ _ (by omega)]
  rw [hcurve i hi (by omega), hcurve j (by omega) hj]
  refine ⟨(hvalues _ (List.getElem_mem _)).1.le, ?_⟩
  rcases hij.eq_or_lt with rfl | hlt
  · exact le_rfl
  · exact List.pairwise_iff_getElem.1 (pairwise_of_nonDecreasing hrises) _ _ _ _ (by omega)

/-- Settles O33: the values of the curve are between 0 and 1. -/
theorem scalingNeverExceedsTheEntry : Obligations.ScalingNeverExceedsTheEntry := by
  intro c b d hwf hc hb h0 hd
  obtain ⟨-, hvalues, -⟩ := wellFormed_brightness hwf
  obtain ⟨hb0, hb1⟩ := hvalues b hb
  obtain ⟨hlo, hhi⟩ := scale_mem hc hb0.le hb1 h0 (hd.trans (pwmMax_le hwf))
  refine ⟨hlo, hhi, ?_⟩
  unfold clamp
  omega

theorem clamp_mono {v w lo hi : Int} (h : v ≤ w) : clamp v lo hi ≤ clamp w lo hi := by
  unfold clamp
  omega

/-- Settles O34: off is zero, and between lit intensities the curve, the scaling and the clamp keep the order. -/
theorem dutyRisesWithIntensity : Obligations.DutyRisesWithIntensity := by
  intro c dt ct i j hwf hc hentry hi hij hj
  have hp := pwmMax_le hwf
  rcases eq_or_ne i (-1) with rfl | hon
  · have hlit := lightDuty_inRange (pwmMax_pos hwf).le dt ct j
    exact ⟨hlit.warmLo, hlit.coldLo⟩
  · have hlit : ∀ n, i ≤ n → lightDuty c dt ct n = scaledDuty c (curveAt c n) (DutyTable.get dt ct) := fun n hn =>
      if_neg (by omega)
    obtain ⟨hcurve0, hcurve⟩ := curveAt_mono hwf (by omega) hij hj
    rw [hlit i le_rfl, hlit j hij]
    exact ⟨clamp_mono (scale_mono hc hcurve0 hcurve hentry.warmLo (hentry.warmHi.trans hp)),
      clamp_mono (scale_mono hc hcurve0 hcurve hentry.coldLo (hentry.coldHi.trans hp))⟩

/-- R135: with both indices in range a module takes the scaled and clamped entry. -/
theorem setLighting_inRange {s : State} {ct i : Int} (m : Module) (hi0 : 0 ≤ i) (hi9 : i ≤ 9) (hlo : s.cfg.colorMin ≤ ct)
    (hhi : ct ≤ s.cfg.colorMax) (hb : s.cfg.brightness[i.toNat]? = some b) :
    setLighting m ct i s = .ok (s.pwmPair m (scaledDuty s.cfg b (DutyTable.get s.dt ct))) := by
  have hcurve : curveAt s.cfg i = b := by rw [curveAt, List.getD_eq_getElem?_getD, hb, Option.getD_some]
  have hlit : lightDuty s.cfg s.dt ct i = scaledDuty s.cfg b (DutyTable.get s.dt ct) := by
    rw [lightDuty, if_neg (by omega), hcurve]
  exact setLighting_ok_iff.2 ⟨.inr ⟨⟨hi0, hi9⟩, hlo, hhi⟩, by rw [hlit]⟩

/-- Settles O31: the write to one module; the scalings on exact products; the vector by evaluation; and the rounding. -/
theorem lightingWritesTheScaledEntry : Obligations.LightingWritesTheScaledEntry := by
  refine ⟨?_, fun c d => scale_one, fun c k n d => scale_of_form, by decide +kernel,
    fun c b d h0 hd => ⟨fun hc => scale_of_binary32 hc h0 hd, fun hc => scale_of_exactProduct hc h0 hd⟩,
    fun k e => fl32_tie, fun x hx => ⟨fl32_form hx, fun k e => fl32_nearest hx⟩⟩
  rintro s ct i b d hi0 hi9 hlo hhi hb rfl
  exact ⟨setLighting_inRange .m0 hi0 hi9 hlo hhi hb, setLighting_inRange .m1 hi0 hi9 hlo hhi hb⟩

end Scaling

end Sys2Proof.Machine
end
